-- ==== Sys2Proof/Word.lean ====
section
/-!
DEFINITION. The word types of the block (00_scope.md R5, R12): registers and data bytes have 8 bits, port numbers and line
arguments 16, an access descriptor 32.
-/

namespace Sys2Proof

/-- A register of the PIC or the NIC, or one byte of a buffer or of NIC RAM (R12). -/
abbrev Byte := BitVec 8

/-- A port number of the 16-bit port space (20_memory.md R100). -/
abbrev Port := BitVec 16

/-- A 32-bit access descriptor (30_encoding.md R140). -/
abbrev Descriptor := BitVec 32

end Sys2Proof
end

