-- ==== Sys2Proof/Config.lean ====
section
/-!
DEFINITION. What an implementation fixes and what the spec leaves free: the open parameters of 00_scope.md R11, and the
draws of R7. Each is an uninterpreted constant, so that a theorem holds for every value of it.
-/

namespace Sys2Proof

/-- The kinds of device-internal error that the NIC reports through `errIsr` (00_scope.md R11, 43_ne2000_regs.md R307). -/
inductive NicErrKind where
  | badWidth
  | invalidRegister
  | dmaBounds
  | hostRead
  deriving DecidableEq, Repr, Inhabited

/-- An answer of `host_read_packet()` (00_scope.md R10, R20): nothing, one packet of any length, or an error. -/
inductive HostRead where
  | noPacket
  | packet (bytes : List Byte)
  | error
  deriving DecidableEq, Repr, Inhabited

/-- Parameter `nicIrqLine` (R11): the PIC line the NIC raises and lowers. -/
opaque Config.nicIrqLine : Nat

/-- Parameter `dcrReset` (R11): DCR at power-on and after a NIC reset. -/
opaque Config.dcrReset : Byte

/-- Parameter `errIsr` (R11): the ISR bits a device-internal error of each kind sets; 0 is admitted. -/
opaque Config.errIsr : NicErrKind → Byte

/-- Parameter `mac` (R11): the configured MAC address. -/
opaque Config.mac : Fin 6 → Byte

/-- The `n`-th byte drawn (R7): any byte, under no law. -/
opaque Config.drawByte : Nat → Byte

/-- The byte that NIC RAM address `a` holds after the power-on made at draw `n`, until something writes it
(10_state.md R41, 70_reset_and_hazards.md R470): any byte, under no law. -/
opaque Config.ramByte (n a : Nat) : Byte

/-- The answer of `host_read_packet()` in the step of draw `n`, where no move of the environment fixes one (R20). -/
opaque Config.hostRead : Nat → HostRead

/-- Whether `host_write_packet` answers `Ok` in the step of draw `n`, where no move of the environment fixes it (R20). -/
opaque Config.hostWriteOk : Nat → Bool

/-- `rxRecheck` of the step of draw `n`, where no move of the environment fixes it (45_ne2000_rx.md R392). -/
opaque Config.rxRecheck : Nat → Bool

/-- Whether an external device answers `Ok` in the step of draw `n`, where no move of the environment fixes it
(40_iobus.md R183). -/
opaque Config.extOk : Nat → Bool

end Sys2Proof
end

