-- ==== Sys2Proof/Syntax.lean ====
section
/-!
DEFINITION. The steps of the block as syntax: one constructor of `Instr` for each mnemonic of spec/opcode_table.json, with
the operands the access descriptor carries (30_encoding.md R140 to R156). Rows of one mnemonic are the ranges of ports,
pages and widths of one form, which the operands tell apart.
-/

namespace Sys2Proof

/-- The two PIC chips (10_state.md R30); `port[7]` of a PIC port selects the chip (30_encoding.md R141). -/
inductive Chip where
  | master
  | slave
  deriving DecidableEq, Repr, Inhabited

/-- The two ports of a PIC chip (30_encoding.md R141); `port[0]` selects the port. -/
inductive PicPort where
  | command
  | data
  deriving DecidableEq, Repr, Inhabited

/-- The direction of a port access, field `d` of R142: IN is device to guest, OUT is guest to device. -/
inductive Dir where
  | input
  | output
  deriving DecidableEq, Repr, Inhabited

/-- The width of a port access, field `w` of R142. -/
inductive Width where
  | w1
  | w2
  | w4
  deriving DecidableEq, Repr, Inhabited

/-- The devices of the BUS table (10_state.md R38). -/
inductive Device where
  | picMaster
  | picSlave
  | pit
  | keyboard
  | rtc
  | nic
  | com1
  deriving DecidableEq, Repr, Inhabited

/-- One registration of the BUS table: an inclusive range of ports and its device (10_state.md R38). -/
structure BusRange where
  first : Nat
  last : Nat
  device : Device
  deriving DecidableEq, Repr, Inhabited

/-- Why a descriptor is reserved (30_encoding.md R146). -/
inductive Reserved where
  /-- Format PIO with width code 0b11. -/
  | widthCode
  /-- Format EVT with a bit of `x[30:24]` or `x[19:16]` set. -/
  | eventBits
  /-- Format EVT with code 7 or above. -/
  | eventCode
  /-- Format EVT with a non-zero argument on a code other than 0 and 1. -/
  | eventArg
  deriving DecidableEq, Repr, Inhabited

/-- One step of the block. `v` is the first data byte `D[0]` of an OUT (0 for an IN), `w` the width, `d` the direction,
`o` the NIC offset, `pg` the NIC page of the descriptor. -/
inductive Instr where
  -- PIC command port and data port (41_pic_ports.md)
  | picIcw1 (c : Chip) (v : Byte)
  | picOcw2EoiSpec (c : Chip) (v : Byte)
  | picOcw2Eoi (c : Chip) (v : Byte)
  | picOcw2Nop (c : Chip) (v : Byte)
  | picOcw3 (c : Chip) (v : Byte)
  | picIcw2 (c : Chip) (v : Byte)
  | picIcw3 (c : Chip) (v : Byte)
  | picIcw4 (c : Chip) (v : Byte)
  | picImrW (c : Chip) (v : Byte)
  | picDataR (c : Chip)
  | picCmdR (c : Chip)
  | picWide (c : Chip) (p : PicPort) (d : Dir) (w : Width) (v : Byte)
  -- NIC command register (44_ne2000_cr_dma_tx.md) and page 0 writes (43_ne2000_regs.md)
  | nicCrR
  | nicCrW (v : Byte)
  | nicPstartW (v : Byte)
  | nicPstopW (v : Byte)
  | nicBnryW (v : Byte)
  | nicTpsrW (v : Byte)
  | nicTbcr0W (v : Byte)
  | nicTbcr1W (v : Byte)
  | nicIsrW (v : Byte)
  | nicRsar0W (v : Byte)
  | nicRsar1W (v : Byte)
  | nicRbcr0W (v : Byte)
  | nicRbcr1W (v : Byte)
  | nicRcrW (v : Byte)
  | nicTcrW (v : Byte)
  | nicDcrW (v : Byte)
  | nicImrW (v : Byte)
  -- NIC page 0 reads
  | nicBnryR
  | nicIsrR
  -- NIC invalid slots (43_ne2000_regs.md R304)
  | nicInvalid (o : BitVec 5) (pg : BitVec 2) (d : Dir) (w : Width) (v : Byte)
  -- NIC page 1
  | nicParR (k : Fin 6)
  | nicParW (k : Fin 6) (v : Byte)
  | nicCurrR
  | nicCurrW (v : Byte)
  | nicMarR (k : Fin 8)
  | nicMarW (k : Fin 8) (v : Byte)
  -- NIC page 2 reads
  | nicPstartR
  | nicPstopR
  | nicTpsrR
  | nicRcrR
  | nicTcrR
  | nicDcrR
  | nicImrR
  -- NIC data port, widths and reset port
  | nicDataIn (w : Width)
  | nicDataOut (w : Width) (v : Byte)
  | nicBadwidth (o : BitVec 5) (d : Dir) (w : Width) (v : Byte)
  | nicResetW (w : Width) (v : Byte)
  | nicResetR (w : Width)
  -- BUS (40_iobus.md)
  | busExt (port : Port) (d : Dir) (w : Width) (v : Byte)
  | busUnmapped (port : Port) (d : Dir) (w : Width) (v : Byte)
  -- interface events (30_encoding.md R145)
  | picRaise (line : BitVec 16)
  | picLower (line : BitVec 16)
  | picPending
  | picAck
  | nicRxPoll
  | nicRxDeliver
  | sysPowerOn
  deriving DecidableEq, Repr, Inhabited

end Sys2Proof
end

