-- ==== Sys2Proof/Machine/PortMap.lean ====
section
/-!
DEFINITION. The two address tables of the block, each kept as one table: the BUS port map (10_state.md R38) and the NIC
register map (10_state.md R50).
-/

namespace Sys2Proof.Machine

/-- The port map of 10_state.md R38, as inclusive ranges that do not overlap. -/
def portMap : List BusRange :=
  [ ⟨0x20, 0x21, .picMaster⟩, ⟨0xA0, 0xA1, .picSlave⟩, ⟨0x40, 0x43, .pit⟩, ⟨0x61, 0x61, .pit⟩, ⟨0x60, 0x60, .keyboard⟩,
    ⟨0x64, 0x64, .keyboard⟩, ⟨0x70, 0x71, .rtc⟩, ⟨0x300, 0x31F, .nic⟩, ⟨0x3F8, 0x3FF, .com1⟩ ]

/-- `BUS[port]`: the device of a port, or none (R38, 40_iobus.md R180). The width of an access plays no part. -/
def busDevice (bus : List BusRange) (port : Port) : Option Device :=
  (bus.find? fun r => decide (r.first ≤ port.toNat ∧ port.toNat ≤ r.last)).map BusRange.device

/-- The devices whose accesses are environment steps (40_iobus.md R183). -/
def deviceIsExternal : Device → Bool
  | .pit | .keyboard | .rtc | .com1 => true
  | .picMaster | .picSlave | .nic => false

/-- The register that a width-1 IN at NIC offset 0x01 to 0x0F reads on each page (10_state.md R50); none is an invalid
slot. -/
def nicReadSlot (pg : BitVec 2) (o : BitVec 5) : Option Instr :=
  match pg.toNat, o.toNat with
  | 0, 0x03 => some .nicBnryR
  | 0, 0x07 => some .nicIsrR
  | 1, 0x01 => some (.nicParR 0)
  | 1, 0x02 => some (.nicParR 1)
  | 1, 0x03 => some (.nicParR 2)
  | 1, 0x04 => some (.nicParR 3)
  | 1, 0x05 => some (.nicParR 4)
  | 1, 0x06 => some (.nicParR 5)
  | 1, 0x07 => some .nicCurrR
  | 1, 0x08 => some (.nicMarR 0)
  | 1, 0x09 => some (.nicMarR 1)
  | 1, 0x0A => some (.nicMarR 2)
  | 1, 0x0B => some (.nicMarR 3)
  | 1, 0x0C => some (.nicMarR 4)
  | 1, 0x0D => some (.nicMarR 5)
  | 1, 0x0E => some (.nicMarR 6)
  | 1, 0x0F => some (.nicMarR 7)
  | 2, 0x01 => some .nicPstartR
  | 2, 0x02 => some .nicPstopR
  | 2, 0x04 => some .nicTpsrR
  | 2, 0x0C => some .nicRcrR
  | 2, 0x0D => some .nicTcrR
  | 2, 0x0E => some .nicDcrR
  | 2, 0x0F => some .nicImrR
  | _, _ => none

/-- The register that a width-1 OUT of `v` at NIC offset 0x01 to 0x0F writes on each page (10_state.md R50); none is an
invalid slot. -/
def nicWriteSlot (pg : BitVec 2) (o : BitVec 5) (v : Byte) : Option Instr :=
  match pg.toNat, o.toNat with
  | 0, 0x01 => some (.nicPstartW v)
  | 0, 0x02 => some (.nicPstopW v)
  | 0, 0x03 => some (.nicBnryW v)
  | 0, 0x04 => some (.nicTpsrW v)
  | 0, 0x05 => some (.nicTbcr0W v)
  | 0, 0x06 => some (.nicTbcr1W v)
  | 0, 0x07 => some (.nicIsrW v)
  | 0, 0x08 => some (.nicRsar0W v)
  | 0, 0x09 => some (.nicRsar1W v)
  | 0, 0x0A => some (.nicRbcr0W v)
  | 0, 0x0B => some (.nicRbcr1W v)
  | 0, 0x0C => some (.nicRcrW v)
  | 0, 0x0D => some (.nicTcrW v)
  | 0, 0x0E => some (.nicDcrW v)
  | 0, 0x0F => some (.nicImrW v)
  | 1, 0x01 => some (.nicParW 0 v)
  | 1, 0x02 => some (.nicParW 1 v)
  | 1, 0x03 => some (.nicParW 2 v)
  | 1, 0x04 => some (.nicParW 3 v)
  | 1, 0x05 => some (.nicParW 4 v)
  | 1, 0x06 => some (.nicParW 5 v)
  | 1, 0x07 => some (.nicCurrW v)
  | 1, 0x08 => some (.nicMarW 0 v)
  | 1, 0x09 => some (.nicMarW 1 v)
  | 1, 0x0A => some (.nicMarW 2 v)
  | 1, 0x0B => some (.nicMarW 3 v)
  | 1, 0x0C => some (.nicMarW 4 v)
  | 1, 0x0D => some (.nicMarW 5 v)
  | 1, 0x0E => some (.nicMarW 6 v)
  | 1, 0x0F => some (.nicMarW 7 v)
  | _, _ => none

/-- The register slot of a width-1 access of direction `d` (10_state.md R50). -/
def nicSlot (pg : BitVec 2) (o : BitVec 5) (d : Dir) (v : Byte) : Option Instr :=
  match d with
  | .input => nicReadSlot pg o
  | .output => nicWriteSlot pg o v

end Sys2Proof.Machine
end

