-- ==== Sys2Proof/Machine/State.lean ====
section
/-!
DEFINITION. The state of the block as plain data (10_state.md R30 to R71), the faults and refusals, and the state right
after power-on (70_reset_and_hazards.md R470 to R472). INVENTORY.md, heading State, lists every field with its rule.
-/

namespace Sys2Proof.Machine

/-- Why a step faults: the `Unspecified(reason)` of 00_scope.md R6. The step changes no state and the run ends. Each is
safe: the model stops where the source gives no meaning. -/
inductive Fault where
  /-- A PIC port access of width 2 or 4 (41_pic_ports.md R212); raised by PIC.WIDE alone. Safe. -/
  | picWideAccess
  /-- A data-port access of an accepted width while the port is not armed (44_ne2000_cr_dma_tx.md R344); raised by
  NIC.DATA_IN and NIC.DATA_OUT. Safe. -/
  | dataPortNotArmed
  /-- A delivery outside the ring configuration (45_ne2000_rx.md R394); raised by NIC.RX_DELIVER. Safe. -/
  | ringConfig
  deriving DecidableEq, Repr

/-- Why a step is refused. -/
inductive Refusal where
  /-- An instruction without a meaning yet; raised by an arm of `exec` alone. Safe. -/
  | notModelled (mnemonic : String)
  /-- A reserved descriptor: "a model's decoder returns reserved for them and takes no step" (30_encoding.md R146); raised
  by `step` alone. Safe. -/
  | reservedDescriptor (why : Reserved)
  deriving DecidableEq, Repr

/-- Which register a command-port read returns (10_state.md R37). -/
inductive ReadSel where
  | irr
  | isr
  deriving DecidableEq, Repr, Inhabited

/-- The registers of one PIC chip (10_state.md R30). -/
@[ext]
structure PicChip where
  /-- Initialization counter, "next initialization word expected" (R33); a descriptor carries it as bits 30:29. -/
  counter : BitVec 2
  /-- Single (true) or cascade (false) mode (R36). -/
  single : Bool
  /-- ICW4 expected (R36). -/
  needIcw4 : Bool
  /-- Edge (false) or level (true) mode; read by no rule (R36). -/
  level : Bool
  /-- Auto-EOI (R36). -/
  aeoi : Bool
  /-- Special-fully-nested; read by no rule (R36). -/
  sfnm : Bool
  /-- Interrupt-mask register (R31). -/
  imr : Byte
  /-- Interrupt-request register (R32). -/
  irr : Byte
  /-- In-service register (R34). -/
  isr : Byte
  /-- Interrupt-vector offset, the whole ICW2 byte (R35). -/
  offset : Byte
  /-- Read-register selector (R37). -/
  readSel : ReadSel
  deriving DecidableEq, Repr, Inhabited

/-- NIC RAM as address and byte pairs (10_state.md R41), in canonical form: addresses strictly rising. An address with no
entry holds no value here: nothing has written it since power-on. -/
abbrev Memory := List Host.Cell

/-- The NIC (10_state.md R40): registers, RAM and hidden state. -/
@[ext]
structure Nic where
  cr : Byte
  isr : Byte
  imr : Byte
  dcr : Byte
  tcr : Byte
  rcr : Byte
  pstart : Byte
  pstop : Byte
  bnry : Byte
  curr : Byte
  tpsr : Byte
  tbcr0 : Byte
  tbcr1 : Byte
  rsar0 : Byte
  rsar1 : Byte
  rbcr0 : Byte
  rbcr1 : Byte
  /-- PAR0 to PAR5 (R61). -/
  par : Vector Byte 6
  /-- MAR0 to MAR7 (R61). -/
  mar : Vector Byte 8
  /-- The bytes of RAM written since power-on (R41). -/
  ram : Memory
  /-- The MODEL's own: the draw counter at the last power-on, which names the draws of RAM (log entry 7). -/
  ramEpoch : Nat
  /-- Bytes of the current remote transfer already moved (R66). -/
  dmaProgress : Nat
  /-- The data port has been armed by a remote-DMA command (R67). -/
  dmaArmed : Bool
  /-- The ingress task's one-slot buffer (R68). -/
  rxHeld : Option (List Byte)
  deriving DecidableEq, Repr

/-- The open parameters of 00_scope.md R11; no step writes them. -/
structure Params where
  nicIrqLine : Nat
  dcrReset : Byte
  errBadWidth : Byte
  errInvalidRegister : Byte
  errDmaBounds : Byte
  errHostRead : Byte
  mac : Vector Byte 6
  deriving DecidableEq, Repr

/-- Why an access result is an error (40_iobus.md R184). -/
inductive AccessError where
  /-- A port with no device (R181). -/
  | unhandledPort
  /-- An external device's handler failed (R183, a draw). -/
  | externalDevice
  deriving DecidableEq, Repr, Inhabited

/-- What a step gives back to the agent that took it. -/
inductive StepResult where
  /-- A step that returns nothing: `raise`, `lower`, the ingress task's steps, power-on. -/
  | done
  /-- The access result `Ok` (40_iobus.md R184). -/
  | ok
  /-- The access result `Error` (40_iobus.md R184). -/
  | error (e : AccessError)
  /-- The answer of `pending?` (42_pic_lines.md R244). -/
  | pending (answer : Bool)
  /-- The answer of `acquire-vector`: a vector or "no vector" (42_pic_lines.md R246). -/
  | vector (answer : Option Byte)
  deriving DecidableEq, Repr, Inhabited

/-- The answers the environment gives in one step, each a draw (00_scope.md R7, R20). -/
structure Answers where
  /-- The host's answer to `host_read_packet()` (45_ne2000_rx.md R390). -/
  hostRead : HostRead
  /-- Whether the host answers `Ok` to `host_write_packet` (44_ne2000_cr_dma_tx.md R350). -/
  hostWriteOk : Bool
  /-- Whether a delivery tests "started" again (45_ne2000_rx.md R392). -/
  rxRecheck : Bool
  /-- Whether an external device answers `Ok` (40_iobus.md R183). -/
  extOk : Bool
  deriving DecidableEq, Repr, Inhabited

/-- The four bytes a host may present with an access; the buffer D is the first `width` of them (00_scope.md R19). -/
structure HostBytes where
  b0 : Byte
  b1 : Byte
  b2 : Byte
  b3 : Byte
  deriving DecidableEq, Repr, Inhabited

/-- What an agent brings when it takes a step (30_encoding.md R140, R142): the descriptor, the host's bytes of an OUT, and
the environment's answers. The mode fields and `v` of the descriptor are filled at the step itself (R143). -/
structure Move where
  x : Descriptor
  bytes : HostBytes
  answers : Answers
  deriving DecidableEq, Repr, Inhabited

/-- One call of `host_write_packet` (44_ne2000_cr_dma_tx.md R350) and its answer. -/
structure HostWrite where
  frame : List Byte
  ok : Bool
  deriving DecidableEq, Repr, Inhabited

/-- The state of the block, the buffer and result of the step in progress, and the model's own fields. -/
@[ext]
structure State where
  /-- The open parameters (00_scope.md R11). -/
  params : Params
  /-- The BUS table (10_state.md R38). -/
  bus : List BusRange
  /-- `PIC[M]` (10_state.md R30). -/
  master : PicChip
  /-- `PIC[S]` (10_state.md R30). -/
  slave : PicChip
  /-- The NIC (10_state.md R40). -/
  nic : Nic
  /-- The buffer D of the current port access (00_scope.md R10). -/
  d : List Byte
  /-- The result of the last step (40_iobus.md R184). -/
  result : StepResult
  /-- The MODEL's own: the environment's answers for the step in progress (log entry 9). -/
  answers : Answers
  /-- The MODEL's own: the frames handed to the host so far, oldest first (log entry 11). -/
  hostWrites : List HostWrite
  /-- The MODEL's own: how many draws have been used (log entry 5). -/
  draws : Nat
  /-- The MODEL's own: the moves the agents are about to make, in their order (log entry 1). -/
  agenda : List Move
  deriving DecidableEq, Repr

/-- The environment's answers of the step of draw `n` where no move fixes them (00_scope.md R7). -/
def freeAnswers (n : Nat) : Answers where
  hostRead := Config.hostRead n
  hostWriteOk := Config.hostWriteOk n
  rxRecheck := Config.rxRecheck n
  extOk := Config.extOk n

/-- A PIC chip right after power-on (70_reset_and_hazards.md R470). -/
def PicChip.reset : PicChip where
  counter := 0
  single := false
  needIcw4 := false
  level := false
  aeoi := false
  sfnm := false
  imr := 0x00
  irr := 0x00
  isr := 0x00
  offset := 0x00
  readSel := .irr

/-- The parameters as the uninterpreted constants of Config (00_scope.md R11). -/
def Params.reset : Params where
  nicIrqLine := Config.nicIrqLine
  dcrReset := Config.dcrReset
  errBadWidth := Config.errIsr .badWidth
  errInvalidRegister := Config.errIsr .invalidRegister
  errDmaBounds := Config.errIsr .dmaBounds
  errHostRead := Config.errIsr .hostRead
  mac := #v[Config.mac 0, Config.mac 1, Config.mac 2, Config.mac 3, Config.mac 4, Config.mac 5]

/-- The NIC right after power-on (70_reset_and_hazards.md R470 to R472): the registers the source gives no value are the
draws 0 to 21 (log entry 6), RAM[0..11] holds the MAC twice, and the rest of RAM is unwritten. -/
def Nic.reset : Nic where
  cr := 0x01
  isr := 0x80
  imr := 0x00
  dcr := Config.dcrReset
  tcr := Config.drawByte 0
  rcr := Config.drawByte 1
  pstart := 0x46
  pstop := 0x80
  bnry := 0x46
  curr := 0x46
  tpsr := 0x40
  tbcr0 := Config.drawByte 2
  tbcr1 := Config.drawByte 3
  rsar0 := Config.drawByte 4
  rsar1 := Config.drawByte 5
  rbcr0 := Config.drawByte 6
  rbcr1 := Config.drawByte 7
  par := #v[Config.drawByte 8, Config.drawByte 9, Config.drawByte 10, Config.drawByte 11, Config.drawByte 12,
    Config.drawByte 13]
  mar := #v[Config.drawByte 14, Config.drawByte 15, Config.drawByte 16, Config.drawByte 17, Config.drawByte 18,
    Config.drawByte 19, Config.drawByte 20, Config.drawByte 21]
  ram := [(0, Config.mac 0), (1, Config.mac 1), (2, Config.mac 2), (3, Config.mac 3), (4, Config.mac 4), (5, Config.mac 5),
    (6, Config.mac 0), (7, Config.mac 1), (8, Config.mac 2), (9, Config.mac 3), (10, Config.mac 4), (11, Config.mac 5)]
  ramEpoch := 0
  dmaProgress := 0
  dmaArmed := false
  rxHeld := none

/-- The machine right after power-on (70_reset_and_hazards.md R470 to R475), with no move waiting. -/
def State.reset : State where
  params := Params.reset
  bus := portMap
  master := PicChip.reset
  slave := PicChip.reset
  nic := Nic.reset
  d := []
  result := .done
  answers := freeAnswers 0
  hostWrites := []
  draws := 22
  agenda := []

end Sys2Proof.Machine
end

