-- ==== Sys2Proof/Machine/Operands.lean ====
section
/-!
DEFINITION. The operands of the rules: chips and their registers, the buffer D, the fields of NIC registers, the values
assembled from register pairs and the addresses formed from page numbers (30_encoding.md R157).
-/

namespace Sys2Proof.Machine

/-! ## Bytes and bits -/

/-- `bit(i)` as a byte (00_scope.md R5). -/
def bit (i : Nat) : Byte := 1#8 <<< i

/-- The 16-bit value of a register pair, low byte first: `(hi << 8) | lo` (20_memory.md R104). -/
def pair (hi lo : Byte) : Nat := hi.toNat * 256 + lo.toNat

/-- The RAM address of the first byte of a page, `page × 256` (30_encoding.md R157). -/
def pageAddr (page : Byte) : Nat := page.toNat * 256

/-! ## Port accesses -/

/-- The width of an access in bytes, `1 << w` (30_encoding.md R142). -/
def widthBytes : Width → Nat
  | .w1 => 1
  | .w2 => 2
  | .w4 => 4

/-- The first `width` of the bytes a host presents (00_scope.md R19). -/
def HostBytes.firstBytes (b : HostBytes) : Width → List Byte
  | .w1 => [b.b0]
  | .w2 => [b.b0, b.b1]
  | .w4 => [b.b0, b.b1, b.b2, b.b3]

/-- The buffer D of an OUT of width `w` whose first byte is `v` (00_scope.md R10, 30_encoding.md R142): `v` and the bytes of
the buffer after it. -/
def State.outBytes (s : State) (w : Width) (v : Byte) : List Byte :=
  v :: (List.range (widthBytes w - 1)).map fun k => s.d.getD (k + 1) 0

/-! ## PIC chips -/

/-- `PIC[c]` (10_state.md R30). -/
def State.chip (s : State) : Chip → PicChip
  | .master => s.master
  | .slave => s.slave

/-- The state with `PIC[c]` replaced. -/
def State.withChip (s : State) (c : Chip) (p : PicChip) : State :=
  match c with
  | .master => { s with master := p }
  | .slave => { s with slave := p }

/-! ## NIC registers -/

/-- The active page, `CR.PS = CR[7:6]` (10_state.md R42). -/
def Nic.page (n : Nic) : BitVec 2 := n.cr.extractLsb' 6 2

/-- The NIC is started: `CR.STA = 1 ∧ CR.STP = 0` (10_state.md R51). -/
def Nic.started (n : Nic) : Bool := n.cr.getLsbD 1 && !n.cr.getLsbD 0

/-- `DCR.WTS`, word mode (10_state.md R54). -/
def Nic.wordMode (n : Nic) : Bool := n.dcr.getLsbD 0

/-- `dmaAddr = (RSAR1 << 8) | RSAR0` (10_state.md R60). -/
def Nic.dmaAddr (n : Nic) : Nat := pair n.rsar1 n.rsar0

/-- `dmaCount = (RBCR1 << 8) | RBCR0` (10_state.md R60). -/
def Nic.dmaCount (n : Nic) : Nat := pair n.rbcr1 n.rbcr0

/-- The RAM address of the next data-port transfer, `dmaAddr + dmaProgress`, with no wrap (44_ne2000_cr_dma_tx.md R342). -/
def Nic.dmaPos (n : Nic) : Nat := n.dmaAddr + n.dmaProgress

/-- `txCount = (TBCR1 << 8) | TBCR0` (10_state.md R59). -/
def Nic.txCount (n : Nic) : Nat := pair n.tbcr1 n.tbcr0

/-- The RAM address of the frame to transmit, `TPSR * 256` (44_ne2000_cr_dma_tx.md R350). -/
def Nic.txBase (n : Nic) : Nat := pageAddr n.tpsr

/-- `errIsr(k)` (00_scope.md R11). -/
def Params.errIsr (p : Params) : NicErrKind → Byte
  | .badWidth => p.errBadWidth
  | .invalidRegister => p.errInvalidRegister
  | .dmaBounds => p.errDmaBounds
  | .hostRead => p.errHostRead

/-! ## The receive ring -/

/-- The number of RAM bytes (10_state.md R41, 00_scope.md R12). -/
def ramSize : Nat := 65536

/-- The largest received or transmitted frame (00_scope.md R12). -/
def maxFrame : Nat := 1514

/-- The smallest transmitted frame (00_scope.md R12). -/
def minTxFrame : Nat := 60

/-- The pages a packet of `len` bytes takes, `⌈(len + 4) / 256⌉` (45_ne2000_rx.md R395). -/
def ringPages (len : Nat) : Nat := (len + 4 + 255) / 256

/-- The ring configuration check for a packet of `pages` pages (45_ne2000_rx.md R394). -/
def Nic.ringOk (n : Nic) (pages : Nat) : Bool :=
  n.pstart.toNat < n.pstop.toNat && n.pstart.toNat ≤ n.curr.toNat && n.curr.toNat < n.pstop.toNat &&
    pages < n.pstop.toNat - n.pstart.toNat

/-- The next page after a packet of `pages` pages, wrapping at PSTOP to PSTART (45_ne2000_rx.md R396). -/
def Nic.ringNext (n : Nic) (pages : Nat) : Nat :=
  if n.pstop.toNat ≤ n.curr.toNat + pages then n.curr.toNat + pages - (n.pstop.toNat - n.pstart.toNat)
  else n.curr.toNat + pages

/-- The RAM address of byte `k` of a packet delivered at CURR (45_ne2000_rx.md R397). -/
def Nic.ringAddr (n : Nic) (k : Nat) : Nat :=
  if pageAddr n.pstop ≤ pageAddr n.curr + 4 + k then
    pageAddr n.curr + 4 + k - (n.pstop.toNat - n.pstart.toNat) * 256
  else pageAddr n.curr + 4 + k

/-- The header of a packet of `len` bytes whose next page is `next`: receive status PRX = 0x01, the next page, and the
total length `len + 4` low byte first (45_ne2000_rx.md R397, 10_state.md R55, 20_memory.md R105). -/
def ringHeader (next len : Nat) : List Byte :=
  [0x01, BitVec.ofNat 8 next, BitVec.ofNat 8 ((len + 4) % 256), BitVec.ofNat 8 ((len + 4) / 256)]

/-- The stores of a packet's bytes, from byte `k` on, in order (45_ne2000_rx.md R397). -/
def Nic.ringCells (n : Nic) (k : Nat) : List Byte → List Host.Cell
  | [] => []
  | b :: rest => (n.ringAddr k, b) :: n.ringCells (k + 1) rest

end Sys2Proof.Machine
end

