-- ==== Sys2Proof/Machine/Flags.lean ====
section
/-!
DEFINITION. The status bits of the block: the NIC's ISR and IMR bits (10_state.md R52), the PIC's request, mask and
in-service bits, the candidate test and the two scans over a chip's lines.
-/

namespace Sys2Proof.Machine

/-! ## NIC ISR and IMR bits (10_state.md R52) -/

/-- PRX, packet received. -/
def isrPrx : Byte := 0x01
/-- PTX, transmit ok. -/
def isrPtx : Byte := 0x02
/-- RXE, receive error. -/
def isrRxe : Byte := 0x04
/-- TXE, transmit error. -/
def isrTxe : Byte := 0x08
/-- OVW, overflow warning. -/
def isrOvw : Byte := 0x10
/-- CNT; set by no rule except through `errIsr`. -/
def isrCnt : Byte := 0x20
/-- RDC, remote DMA complete. -/
def isrRdc : Byte := 0x40
/-- RST, reset flag. -/
def isrRst : Byte := 0x80

/-- Some unmasked NIC cause is set: `ISR & IMR ≠ 0` (43_ne2000_regs.md R280). -/
def Nic.irqPending (n : Nic) : Bool := n.isr &&& n.imr != 0

/-! ## PIC bits -/

/-- `IRR[i] <- 1` (42_pic_lines.md R240). -/
def PicChip.request (p : PicChip) (i : Nat) : PicChip := { p with irr := p.irr ||| bit i }

/-- `IRR[i] <- 0` (42_pic_lines.md R241, R246). -/
def PicChip.withdraw (p : PicChip) (i : Nat) : PicChip := { p with irr := p.irr &&& ~~~(bit i) }

/-- `ISR[i] <- 1` unless the chip is in auto-EOI mode (42_pic_lines.md R246). -/
def PicChip.serve (p : PicChip) (i : Nat) : PicChip :=
  if p.aeoi then p else { p with isr := p.isr ||| bit i }

/-- `ISR[i] <- 0` (41_pic_ports.md R202, R203). -/
def PicChip.endService (p : PicChip) (i : Nat) : PicChip := { p with isr := p.isr &&& ~~~(bit i) }

/-- `cand(c, i)`: requested, not masked and not in service (42_pic_lines.md R243). -/
def PicChip.cand (p : PicChip) (i : Nat) : Bool := p.irr.getLsbD i && !p.imr.getLsbD i && !p.isr.getLsbD i

/-- The least index of a set bit (41_pic_ports.md R203, R213). -/
def lowestSet (b : Byte) : Option Nat := [0, 1, 2, 3, 4, 5, 6, 7].find? fun i => b.getLsbD i

/-- The master lines in the order `acquire-vector` takes them: all but the cascade line 2 (42_pic_lines.md R245). -/
def masterLines : List Nat := [0, 1, 3, 4, 5, 6, 7]

/-- The slave lines in the order `acquire-vector` takes them (42_pic_lines.md R245). -/
def slaveLines : List Nat := [0, 1, 2, 3, 4, 5, 6, 7]

/-- The cascade line of the master (00_scope.md R12). -/
def cascadeLine : Nat := 2

end Sys2Proof.Machine
end

