-- ==== Sys2Proof/Machine/Ops.lean ====
section
/-!
DEFINITION. The operations the meanings share: NIC RAM, draws, access results, the PIC's four calls (42_pic_lines.md), end
of interrupt (41_pic_ports.md R202, R203, R213), the NIC's interrupt helpers and error report (43_ne2000_regs.md R280,
R307) and the NIC reset (70_reset_and_hazards.md R471, R472). The block takes no exception (60_exceptions.md R420, R432):
acknowledgement of an interrupt (`acquireVector`, R431) and its end (`PicChip.nonspecificEoi`) stand in that place.
-/

namespace Sys2Proof.Machine

/-- The outcome of a step of this block. -/
abbrev Out := Host.Outcome State Fault Refusal

/-! ## NIC RAM (10_state.md R41, 00_scope.md R9) -/

/-- The canonical form of RAM: addresses strictly rising, each below 65536. An address with no entry holds no value, so no
entry equals what an unlisted address holds. -/
abbrev Memory.wf (m : Memory) : Prop := m.Pairwise (fun p q => p.1 < q.1) ∧ ∀ c ∈ m, c.1 < 65536

/-- The byte written last at an address since power-on, or none. -/
def Memory.read? : Memory → Nat → Option Byte
  | [], _ => none
  | (a, b) :: m, x => if x = a then some b else Memory.read? m x

/-- Store one byte, keeping the addresses rising. -/
def Memory.write : Memory → Nat → Byte → Memory
  | [], x, v => [(x, v)]
  | (a, b) :: m, x, v =>
    if x < a then (x, v) :: (a, b) :: m
    else if x = a then (a, v) :: m
    else (a, b) :: Memory.write m x v

/-- Store the bytes of a list of cells, one after another. -/
def Memory.writeCells : Memory → List Host.Cell → Memory
  | m, [] => m
  | m, (a, b) :: rest => Memory.writeCells (Memory.write m a b) rest

/-- The stores of a run of bytes from address `a` on. -/
def runCells (a : Nat) : List Byte → List Host.Cell
  | [] => []
  | b :: rest => (a, b) :: runCells (a + 1) rest

/-- `MemWrite(a, n, bytes)` (00_scope.md R9): `bytes[k]` is stored at `RAM[a + k]`. -/
def Memory.writeRun (m : Memory) (a : Nat) (bytes : List Byte) : Memory := m.writeCells (runCells a bytes)

/-- `RAM[a]`: the byte written last, or the draw of the last power-on where nothing has been written
(70_reset_and_hazards.md R470, log entry 7). -/
def Nic.ramByte (n : Nic) (a : Nat) : Byte := (n.ram.read? a).getD (Config.ramByte n.ramEpoch a)

/-- `MemRead(a, n)` (00_scope.md R9): the bytes `RAM[a], …, RAM[a+n-1]` in address order. -/
def Nic.memRead (nic : Nic) (a n : Nat) : List Byte := (List.range n).map fun k => nic.ramByte (a + k)

/-! ## Draws and results -/

/-- The next `n` drawn bytes (00_scope.md R7). -/
def State.drawnBytes (s : State) (n : Nat) : List Byte := (List.range n).map fun k => Config.drawByte (s.draws + k)

/-- `n` draws are used up, so that the next use is independent (00_scope.md R7). -/
def State.useDraws (s : State) (n : Nat) : State := { s with draws := s.draws + n }

/-- The step returns `r`. -/
def State.returning (s : State) (r : StepResult) : State := { s with result := r }

/-- An IN puts `bytes` into the buffer D and returns `Ok` (20_memory.md R106, 40_iobus.md R184). -/
def State.reply (s : State) (bytes : List Byte) : State := { s with d := bytes, result := .ok }

/-- An IN of width `w` leaves draws in D and returns `r` (40_iobus.md R182); an OUT leaves D as the host filled it. -/
def State.drawReply (s : State) (d : Dir) (w : Width) (r : StepResult) : State :=
  match d with
  | .input => ({ s with d := s.drawnBytes (widthBytes w), result := r } : State).useDraws (widthBytes w)
  | .output => s.returning r

/-! ## The PIC's request lines (42_pic_lines.md R240, R241) -/

/-- `raise(line)` (R240). A raise on a masked line is lost; a slave line also requests the cascade line. -/
def picRaise (line : Nat) (s : State) : State :=
  if line < 8 then
    if s.master.imr.getLsbD line then s else { s with master := s.master.request line }
  else if line < 16 then
    if s.slave.imr.getLsbD (line - 8) then s
    else if s.master.imr.getLsbD cascadeLine then { s with slave := s.slave.request (line - 8) }
    else { s with slave := s.slave.request (line - 8), master := s.master.request cascadeLine }
  else s

/-- `lower(line)` (R241). It reads no mask; a slave line also withdraws the cascade request. -/
def picLower (line : Nat) (s : State) : State :=
  if line < 8 then { s with master := s.master.withdraw line }
  else if line < 16 then
    { s with slave := s.slave.withdraw (line - 8), master := s.master.withdraw cascadeLine }
  else s

/-! ## Arbitration, acknowledgement and end of interrupt -/

/-- `pending?` (42_pic_lines.md R244). -/
def picPendingAnswer (s : State) : Bool :=
  masterLines.any s.master.cand || (s.master.cand cascadeLine && slaveLines.any s.slave.cand)

/-- A chip takes its candidate `i`: in service unless auto-EOI, and no longer requested (42_pic_lines.md R246). -/
def PicChip.acknowledge (p : PicChip) (i : Nat) : PicChip := (p.serve i).withdraw i

/-- The master's part in a slave acknowledgement: `IRR[2]` is cleared once slave IRR is empty, and `ISR[2]` is set unless
the master is in auto-EOI mode (42_pic_lines.md R246). -/
def PicChip.acknowledgeCascade (p : PicChip) (slaveEmpty : Bool) : PicChip :=
  (if slaveEmpty then p.withdraw cascadeLine else p).serve cascadeLine

/-- The vector of line `i` of a chip, `(offset + i) mod 256` (42_pic_lines.md R247). -/
def PicChip.vectorOf (p : PicChip) (i : Nat) : Byte := p.offset + BitVec.ofNat 8 i

/-- `acquire-vector` (42_pic_lines.md R246): the vector, or none, and the state after it. -/
def acquireVector (s : State) : Option Byte × State :=
  match masterLines.find? s.master.cand with
  | some i => (some (s.master.vectorOf i), { s with master := s.master.acknowledge i })
  | none =>
    if s.master.cand cascadeLine then
      match slaveLines.find? s.slave.cand with
      | some j =>
        (some (s.slave.vectorOf j),
          { s with
            slave := s.slave.acknowledge j
            master := s.master.acknowledgeCascade ((s.slave.acknowledge j).irr == 0) })
      | none => (none, s)
    else (none, s)

/-- A non-specific end of interrupt on one chip: the lowest set ISR bit is cleared, if any (41_pic_ports.md R203, R213). -/
def PicChip.nonspecificEoi (p : PicChip) : PicChip :=
  match lowestSet p.isr with
  | some i => p.endService i
  | none => p

/-- An EOI whose target on chip `c` is line `i`: the master forwards a non-specific EOI to the slave when the line is the
cascade line (41_pic_ports.md R202, R203, R213). -/
def picEndOfInterrupt (c : Chip) (i : Nat) (s : State) : State :=
  match c with
  | .master =>
    if i = cascadeLine then { s with master := s.master.endService i, slave := s.slave.nonspecificEoi }
    else { s with master := s.master.endService i }
  | .slave => { s with slave := s.slave.endService i }

/-! ## The NIC's interrupt helpers (43_ne2000_regs.md R280) and error report (R307) -/

/-- `raise_if(bits)`: only the bits just set are tested (R280). -/
def raiseIf (bits : Byte) (s : State) : State :=
  if bits &&& s.nic.imr = 0 then s else picRaise s.params.nicIrqLine s

/-- `irq_follow()` (R280). -/
def irqFollow (s : State) : State :=
  if s.nic.irqPending then picRaise s.params.nicIrqLine s else picLower s.params.nicIrqLine s

/-- `pic_lower(L)` when no unmasked cause remains (R301, 44_ne2000_cr_dma_tx.md R340 step 3). -/
def lowerIfIdle (s : State) : State :=
  if s.nic.irqPending then s else picLower s.params.nicIrqLine s

/-- Set ISR bits and raise if unmasked (60_exceptions.md R424, R425). -/
def signal (bits : Byte) (s : State) : State :=
  raiseIf bits { s with nic := { s.nic with isr := s.nic.isr ||| bits } }

/-- `report(k)` (R307). -/
def report (k : NicErrKind) (s : State) : State := signal (s.params.errIsr k) s

/-- An access of a width the slot does not take (R305). -/
def badWidthAccess (d : Dir) (w : Width) (s : State) : State := report .badWidth (s.drawReply d w .ok)

/-! ## NIC reset (70_reset_and_hazards.md R471, R472) -/

/-- The register and RAM assignments of a NIC reset (R471) and the hidden state of R472. -/
def Nic.afterReset (n : Nic) (p : Params) : Nic :=
  { n with
    cr := 0x01
    isr := 0x80
    imr := 0x00
    dcr := p.dcrReset
    pstart := 0x46
    pstop := 0x80
    bnry := 0x46
    curr := 0x46
    tpsr := 0x40
    ram := n.ram.writeRun 0 (p.mac.toList ++ p.mac.toList)
    dmaProgress := 0
    dmaArmed := false }

/-- `nic_reset()` with its `pic_lower` (R471, R472). -/
def nicReset (s : State) : State :=
  picLower s.params.nicIrqLine { s with nic := s.nic.afterReset s.params }

end Sys2Proof.Machine
end

