-- ==== Sys2Proof/Machine/Bus.lean ====
section
/-!
DEFINITION. Accesses that reach no device of the block (40_iobus.md R181 to R183). The BUS itself writes no state.
-/

namespace Sys2Proof.Machine

/-- BUS.EXT (R183): an environment step; an IN returns draws, and the result is the environment's answer. -/
def execBusExt (_port : Port) (d : Dir) (w : Width) (_v : Byte) (s : State) : Out :=
  .next (s.drawReply d w (if s.answers.extOk then .ok else .error .externalDevice))

/-- BUS.UNMAPPED (R181, R182): `Error(UnhandledPort)`; an IN leaves draws in D. -/
def execBusUnmapped (_port : Port) (d : Dir) (w : Width) (_v : Byte) (s : State) : Out :=
  .next (s.drawReply d w (.error .unhandledPort))

end Sys2Proof.Machine
end

