-- ==== Sys2Proof/Machine/NicDma.lean ====
section
/-!
DEFINITION. The NE2000 command register, remote DMA and transmit (44_ne2000_cr_dma_tx.md).
-/

namespace Sys2Proof.Machine

/-! ## Transmit (R350) -/

/-- The frame of a transmit: `MemRead(TPSR * 256, txCount)` (R350). -/
def Nic.txFrame (n : Nic) : List Byte := n.memRead n.txBase n.txCount

/-- The length and bounds checks of a transmit (R350). -/
def Nic.txFits (n : Nic) : Bool :=
  minTxFrame ≤ n.txCount && n.txCount ≤ maxFrame && n.txBase + n.txCount ≤ ramSize

/-- `transmit()` (R350): one host write if the checks pass, then PTX or TXE. -/
def transmit (s : State) : State :=
  if s.nic.txFits then
    signal (if s.answers.hostWriteOk then isrPtx else isrTxe)
      { s with hostWrites := s.hostWrites ++ [⟨s.nic.txFrame, s.answers.hostWriteOk⟩] }
  else signal isrTxe s

/-! ## Command register (R340) -/

/-- CR after a write of `v`: PS and RD as written, TXP 0, STP as written, STA as written unless STP (R340, R51). -/
def crAfter (v : Byte) : Byte :=
  v.extractLsb' 3 5 ++ 0#1 ++ (if v.getLsbD 0 then 0#1 else v.extractLsb' 1 1) ++ v.extractLsb' 0 1

/-- Step 2 of R340 for a write with STP: RST is set and the progress counter cleared. -/
def crStop (s : State) : State :=
  let t := signal isrRst s
  { t with nic := { t.nic with dmaProgress := 0 } }

/-- Step 3 of R340: RST is cleared, and the line lowered when no unmasked cause remains. -/
def crStart (s : State) : State :=
  lowerIfIdle { s with nic := { s.nic with isr := s.nic.isr &&& ~~~isrRst } }

/-- `rd_command(rd)` (R341), for the CR of the same write. -/
def rdCommand (rd : BitVec 3) (s : State) : State :=
  if s.nic.cr.getLsbD 0 then s
  else if rd = 0b100 then { s with nic := { s.nic with dmaArmed := false, dmaProgress := 0 } }
  else if rd = 0b000 then s
  else { s with nic := { s.nic with dmaArmed := true } }

/-- Steps 1 to 5 of R340, in order. -/
def crWrite (v : Byte) (s : State) : State :=
  let s1 := { s with nic := { s.nic with cr := crAfter v } }
  let s2 := if v.getLsbD 0 then crStop s1 else s1
  let s3 := if v.getLsbD 1 && !v.getLsbD 0 then crStart s2 else s2
  let s4 := if v.getLsbD 2 && s3.nic.started then transmit s3 else s3
  rdCommand (v.extractLsb' 3 3) s4

/-- NIC.CR_W (R340). -/
def execNicCrW (v : Byte) (s : State) : Out := .next ((crWrite v s).returning .ok)

/-! ## Remote DMA (R342 to R347) -/

/-- `dma_complete_check()` (R343): the port stays armed. -/
def dmaCompleteCheck (s : State) : State :=
  if s.nic.dmaCount ≤ s.nic.dmaProgress then
    let t := signal isrRdc s
    { t with nic := { t.nic with dmaProgress := 0 } }
  else s

/-- `dma_fail` (R345): the error is reported, the transfer ends and the port is disarmed. -/
def dmaFail (s : State) : State :=
  let t := report .dmaBounds s
  { t with nic := { t.nic with dmaProgress := 0, dmaArmed := false } }

/-- The progress counter grows by the access width, and the transfer may complete (R342, R343). -/
def dmaAdvance (w : Width) (s : State) : State :=
  dmaCompleteCheck { s with nic := { s.nic with dmaProgress := s.nic.dmaProgress + widthBytes w } }

/-- A width the data port takes: 1, or 2 in word mode (R342). -/
def Nic.dmaWidthOk (n : Nic) (w : Width) : Bool :=
  match w with
  | .w1 => true
  | .w2 => n.wordMode
  | .w4 => false

/-- Every byte of a data-port access lies in RAM: `a + w ≤ 65536` (R342). -/
def Nic.dmaInRam (n : Nic) (w : Width) : Bool := n.dmaPos + widthBytes w ≤ ramSize

/-- NIC.DATA_IN (R346): `data_port(0, w, D)`, checked in the order of R342. -/
def execNicDataIn (w : Width) (s : State) : Out :=
  if !s.nic.dmaWidthOk w then .next (badWidthAccess .input w s)
  else if !s.nic.dmaArmed then .fault .dataPortNotArmed
  else if s.nic.dmaInRam w then .next (dmaAdvance w (s.reply (s.nic.memRead s.nic.dmaPos (widthBytes w))))
  else .next (dmaFail (s.reply (List.replicate (widthBytes w) 0xFF)))

/-- NIC.DATA_OUT (R347): `data_port(1, w, D)`, checked in the order of R342. -/
def execNicDataOut (w : Width) (v : Byte) (s : State) : Out :=
  if !s.nic.dmaWidthOk w then .next (badWidthAccess .output w s)
  else if !s.nic.dmaArmed then .fault .dataPortNotArmed
  else if s.nic.dmaInRam w then
    .next (dmaAdvance w
      (({ s with nic := { s.nic with ram := s.nic.ram.writeRun s.nic.dmaPos (s.outBytes w v) } } : State).returning .ok))
  else .next (dmaFail (s.returning .ok))

end Sys2Proof.Machine
end

