-- ==== Sys2Proof/Machine/NicRegs.lean ====
section
/-!
DEFINITION. The NE2000 register file (43_ne2000_regs.md): register reads and writes on pages 0, 1 and 2, ISR and IMR with
their interrupt effects, invalid slots, widths and the reset port. Every access returns `Ok` (40_iobus.md R184).
-/

namespace Sys2Proof.Machine

/-- A width-1 write of a NIC register that has no further effect. -/
def nicStore (n : Nic) (s : State) : State := ({ s with nic := n } : State).returning .ok

/-- NIC.CR_R (R281). -/
def execNicCrR (s : State) : Out := .next (s.reply [s.nic.cr])

/-! ## Plain storage -/

/-- NIC.PSTART_W (R282). -/
def execNicPstartW (v : Byte) (s : State) : Out := .next (nicStore { s.nic with pstart := v } s)

/-- NIC.PSTART_R (R283). -/
def execNicPstartR (s : State) : Out := .next (s.reply [s.nic.pstart])

/-- NIC.PSTOP_W (R284). -/
def execNicPstopW (v : Byte) (s : State) : Out := .next (nicStore { s.nic with pstop := v } s)

/-- NIC.PSTOP_R (R285). -/
def execNicPstopR (s : State) : Out := .next (s.reply [s.nic.pstop])

/-- NIC.BNRY_W (R286). -/
def execNicBnryW (v : Byte) (s : State) : Out := .next (nicStore { s.nic with bnry := v } s)

/-- NIC.BNRY_R (R287). -/
def execNicBnryR (s : State) : Out := .next (s.reply [s.nic.bnry])

/-- NIC.TPSR_W (R288). -/
def execNicTpsrW (v : Byte) (s : State) : Out := .next (nicStore { s.nic with tpsr := v } s)

/-- NIC.TPSR_R (R289). -/
def execNicTpsrR (s : State) : Out := .next (s.reply [s.nic.tpsr])

/-- NIC.TBCR0_W (R290). -/
def execNicTbcr0W (v : Byte) (s : State) : Out := .next (nicStore { s.nic with tbcr0 := v } s)

/-- NIC.TBCR1_W (R291). -/
def execNicTbcr1W (v : Byte) (s : State) : Out := .next (nicStore { s.nic with tbcr1 := v } s)

/-- NIC.RSAR0_W (R292). -/
def execNicRsar0W (v : Byte) (s : State) : Out := .next (nicStore { s.nic with rsar0 := v } s)

/-- NIC.RSAR1_W (R293). -/
def execNicRsar1W (v : Byte) (s : State) : Out := .next (nicStore { s.nic with rsar1 := v } s)

/-- NIC.RBCR0_W (R294). -/
def execNicRbcr0W (v : Byte) (s : State) : Out := .next (nicStore { s.nic with rbcr0 := v } s)

/-- NIC.RBCR1_W (R295). -/
def execNicRbcr1W (v : Byte) (s : State) : Out := .next (nicStore { s.nic with rbcr1 := v } s)

/-- NIC.RCR_W (R296). -/
def execNicRcrW (v : Byte) (s : State) : Out := .next (nicStore { s.nic with rcr := v } s)

/-- NIC.RCR_R (R297). -/
def execNicRcrR (s : State) : Out := .next (s.reply [s.nic.rcr])

/-- NIC.TCR_W (R298). -/
def execNicTcrW (v : Byte) (s : State) : Out := .next (nicStore { s.nic with tcr := v } s)

/-- NIC.TCR_R (R299). -/
def execNicTcrR (s : State) : Out := .next (s.reply [s.nic.tcr])

/-- NIC.DCR_W (R306). -/
def execNicDcrW (v : Byte) (s : State) : Out := .next (nicStore { s.nic with dcr := v } s)

/-- NIC.DCR_R (R308). -/
def execNicDcrR (s : State) : Out := .next (s.reply [s.nic.dcr])

/-! ## Interrupt status and mask -/

/-- NIC.ISR_R (R300): reading acknowledges nothing. -/
def execNicIsrR (s : State) : Out := .next (s.reply [s.nic.isr])

/-- NIC.ISR_W (R301): write-one-to-clear, and the line is lowered when no unmasked cause remains. -/
def execNicIsrW (v : Byte) (s : State) : Out :=
  .next ((lowerIfIdle { s with nic := { s.nic with isr := s.nic.isr &&& ~~~v } }).returning .ok)

/-- NIC.IMR_W (R302): the line follows `ISR & IMR`. -/
def execNicImrW (v : Byte) (s : State) : Out :=
  .next ((irqFollow { s with nic := { s.nic with imr := v } }).returning .ok)

/-- NIC.IMR_R (R303). -/
def execNicImrR (s : State) : Out := .next (s.reply [s.nic.imr])

/-! ## Invalid slots, widths and the reset port -/

/-- NIC.INVALID (R304): the bytes of an IN are draws, an OUT changes no register and no RAM, and the error is reported. -/
def execNicInvalid (_o : BitVec 5) (_pg : BitVec 2) (d : Dir) (w : Width) (_v : Byte) (s : State) : Out :=
  .next (report .invalidRegister (s.drawReply d w .ok))

/-- NIC.BADWIDTH (R305). -/
def execNicBadwidth (_o : BitVec 5) (d : Dir) (w : Width) (_v : Byte) (s : State) : Out := .next (badWidthAccess d w s)

/-- NIC.RESET_W (R310): any width and any value. -/
def execNicResetW (_w : Width) (_v : Byte) (s : State) : Out := .next ((nicReset s).returning .ok)

/-- NIC.RESET_R (R311): draws; no state changes and no error is reported. -/
def execNicResetR (w : Width) (s : State) : Out := .next (s.drawReply .input w .ok)

/-! ## Page 1 -/

/-- NIC.PAR_R (R312). -/
def execNicParR (k : Fin 6) (s : State) : Out := .next (s.reply [s.nic.par[k]])

/-- NIC.PAR_W (R313). -/
def execNicParW (k : Fin 6) (v : Byte) (s : State) : Out := .next (nicStore { s.nic with par := s.nic.par.set k v } s)

/-- NIC.CURR_R (R314). -/
def execNicCurrR (s : State) : Out := .next (s.reply [s.nic.curr])

/-- NIC.CURR_W (R315): no check. -/
def execNicCurrW (v : Byte) (s : State) : Out := .next (nicStore { s.nic with curr := v } s)

/-- NIC.MAR_R (R316). -/
def execNicMarR (k : Fin 8) (s : State) : Out := .next (s.reply [s.nic.mar[k]])

/-- NIC.MAR_W (R317). -/
def execNicMarW (k : Fin 8) (v : Byte) (s : State) : Out := .next (nicStore { s.nic with mar := s.nic.mar.set k v } s)

end Sys2Proof.Machine
end

