-- ==== Sys2Proof/Machine/NicRx.lean ====
section
/-!
DEFINITION. The NE2000 ingress task and the receive ring (45_ne2000_rx.md).
-/

namespace Sys2Proof.Machine

/-- NIC.RX_POLL (R390, R391): a held packet or a stopped NIC means no change; else the host's answer decides. -/
def execNicRxPoll (s : State) : Out :=
  .next
    (match s.nic.rxHeld with
    | some _ => s.returning .done
    | none =>
      if s.nic.started then
        match s.answers.hostRead with
        | .noPacket => s.returning .done
        | .error => (report .hostRead s).returning .done
        | .packet bytes => ({ s with nic := { s.nic with rxHeld := some bytes } } : State).returning .done
      else s.returning .done)

/-- RAM after a packet is delivered at CURR: the header, then the packet's bytes round the ring (R397). -/
def Nic.ringStore (n : Nic) (packet : List Byte) : Memory :=
  (n.ram.writeRun (pageAddr n.curr) (ringHeader (n.ringNext (ringPages packet.length)) packet.length)).writeCells
    (n.ringCells 0 packet)

/-- `deliver(P)`, part 4 (R397): write, move CURR, set PRX. -/
def ringCommit (packet : List Byte) (s : State) : State :=
  signal isrPrx
    { s with
      nic := { s.nic with
        ram := s.nic.ringStore packet
        curr := BitVec.ofNat 8 (s.nic.ringNext (ringPages packet.length)) } }

/-- `deliver(P)` (R395, R394, R396, R397, in that order). -/
def deliver (packet : List Byte) (s : State) : Out :=
  if maxFrame < packet.length then .next (signal isrRxe s)
  else if !s.nic.ringOk (ringPages packet.length) then .fault .ringConfig
  else if s.nic.ringNext (ringPages packet.length) = s.nic.bnry.toNat then .next (signal isrOvw s)
  else .next (ringCommit packet s)

/-- NIC.RX_DELIVER (R393): the held packet is dropped silently if `rxRecheck` finds the NIC stopped, else delivered. -/
def execNicRxDeliver (s : State) : Out :=
  match s.nic.rxHeld with
  | none => .next (s.returning .done)
  | some packet =>
    if s.answers.rxRecheck && !s.nic.started then
      .next (({ s with nic := { s.nic with rxHeld := none } } : State).returning .done)
    else deliver packet (({ s with nic := { s.nic with rxHeld := none } } : State).returning .done)

end Sys2Proof.Machine
end

