-- ==== Sys2Proof/Machine/PicLines.lean ====
section
/-!
DEFINITION. The PIC's four calls as steps of an agent outside the block (42_pic_lines.md, 30_encoding.md R145).
-/

namespace Sys2Proof.Machine

/-- PIC.RAISE (R240): lines from 16 on are ignored. -/
def execPicRaise (line : BitVec 16) (s : State) : Out := .next ((picRaise line.toNat s).returning .done)

/-- PIC.LOWER (R241): lines from 16 on are ignored. -/
def execPicLower (line : BitVec 16) (s : State) : Out := .next ((picLower line.toNat s).returning .done)

/-- PIC.PENDING (R244): the answer is returned and no state changes. -/
def execPicPending (s : State) : Out := .next (s.returning (.pending (picPendingAnswer s)))

/-- PIC.ACK (R246): the vector, or "no vector", is returned. -/
def execPicAck (s : State) : Out := .next ((acquireVector s).2.returning (.vector (acquireVector s).1))

end Sys2Proof.Machine
end

