-- ==== Sys2Proof/Machine/PicPorts.lean ====
section
/-!
DEFINITION. The PIC command port and data port (41_pic_ports.md), one meaning for each instruction. `c` is the chip
addressed and `v = D[0]` the byte written; a width-1 access returns `Ok` (40_iobus.md R184).
-/

namespace Sys2Proof.Machine

/-- ICW1 on a chip (R200): offset and readSel are unchanged. -/
def PicChip.icw1 (p : PicChip) (v : Byte) : PicChip :=
  { p with
    imr := 0x00
    irr := 0x00
    isr := 0x00
    counter := 1
    aeoi := false
    sfnm := false
    single := v.getLsbD 1
    needIcw4 := v.getLsbD 0
    level := v.getLsbD 3 }

/-- PIC.ICW1 (R200). -/
def execPicIcw1 (c : Chip) (v : Byte) (s : State) : Out :=
  .next ((s.withChip c ((s.chip c).icw1 v)).returning .ok)

/-- PIC.OCW2_EOI_SPEC (R202): the line is `v[2:0]`, cleared whether or not it was set. -/
def execPicOcw2EoiSpec (c : Chip) (v : Byte) (s : State) : Out :=
  .next ((picEndOfInterrupt c (v.extractLsb' 0 3).toNat s).returning .ok)

/-- PIC.OCW2_EOI (R203): the line is the lowest set ISR bit; nothing changes if there is none. -/
def execPicOcw2Eoi (c : Chip) (_v : Byte) (s : State) : Out :=
  match lowestSet (s.chip c).isr with
  | some i => .next ((picEndOfInterrupt c i s).returning .ok)
  | none => .next (s.returning .ok)

/-- PIC.OCW2_NOP (R204): no state changes. -/
def execPicOcw2Nop (_c : Chip) (_v : Byte) (s : State) : Out := .next (s.returning .ok)

/-- The selector after an OCW3 (R205): RR (bit 1) applies RIS (bit 0). -/
def PicChip.ocw3 (p : PicChip) (v : Byte) : PicChip :=
  if v.getLsbD 1 then { p with readSel := if v.getLsbD 0 then .isr else .irr } else p

/-- PIC.OCW3 (R205). -/
def execPicOcw3 (c : Chip) (v : Byte) (s : State) : Out :=
  .next ((s.withChip c ((s.chip c).ocw3 v)).returning .ok)

/-- The counter after ICW2 (R206). -/
def PicChip.counterAfterIcw2 (p : PicChip) : BitVec 2 :=
  if !p.single && p.needIcw4 then 2
  else if !p.single && !p.needIcw4 then 0
  else if p.single && p.needIcw4 then 3
  else 0

/-- PIC.ICW2 (R206). -/
def execPicIcw2 (c : Chip) (v : Byte) (s : State) : Out :=
  .next ((s.withChip c { s.chip c with offset := v, counter := (s.chip c).counterAfterIcw2 }).returning .ok)

/-- PIC.ICW3 (R207): the byte is ignored. -/
def execPicIcw3 (c : Chip) (_v : Byte) (s : State) : Out :=
  .next ((s.withChip c { s.chip c with counter := if (s.chip c).needIcw4 then 3 else 0 }).returning .ok)

/-- PIC.ICW4 (R208). -/
def execPicIcw4 (c : Chip) (v : Byte) (s : State) : Out :=
  .next ((s.withChip c { s.chip c with aeoi := v.getLsbD 1, sfnm := v.getLsbD 4, counter := 0 }).returning .ok)

/-- PIC.IMR_W, OCW1 (R209). -/
def execPicImrW (c : Chip) (v : Byte) (s : State) : Out :=
  .next ((s.withChip c { s.chip c with imr := v }).returning .ok)

/-- PIC.DATA_R (R210): IMR in every counter state. -/
def execPicDataR (c : Chip) (s : State) : Out := .next (s.reply [(s.chip c).imr])

/-- The register a command-port read returns (R211). -/
def PicChip.selected (p : PicChip) : Byte :=
  match p.readSel with
  | .irr => p.irr
  | .isr => p.isr

/-- PIC.CMD_R (R211). -/
def execPicCmdR (c : Chip) (s : State) : Out := .next (s.reply [(s.chip c).selected])

/-- PIC.WIDE (R212): `Unspecified(PicWideAccess)` on every access of this form. -/
def execPicWide (_c : Chip) (_p : PicPort) (_d : Dir) (_w : Width) (_v : Byte) (_s : State) : Out :=
  .fault .picWideAccess

end Sys2Proof.Machine
end

