-- ==== Sys2Proof/Machine/Sys.lean ====
section
/-!
DEFINITION. Power-on, the construction of the whole block (70_reset_and_hazards.md R470).
-/

namespace Sys2Proof.Machine

/-- How many register bytes power-on draws (R470): TCR, RCR, TBCR0/1, RSAR0/1, RBCR0/1, PAR0-5, MAR0-7. -/
def powerOnDraws : Nat := 22

/-- The NIC before the reset of R471: the registers that R471 does not name are draws from `n` on, RAM is unwritten with
draw `n`, and no packet is held (R470). -/
def Nic.drawn (nic : Nic) (n : Nat) : Nic :=
  { nic with
    tcr := Config.drawByte n
    rcr := Config.drawByte (n + 1)
    tbcr0 := Config.drawByte (n + 2)
    tbcr1 := Config.drawByte (n + 3)
    rsar0 := Config.drawByte (n + 4)
    rsar1 := Config.drawByte (n + 5)
    rbcr0 := Config.drawByte (n + 6)
    rbcr1 := Config.drawByte (n + 7)
    par := Vector.ofFn fun k => Config.drawByte (n + 8 + k.val)
    mar := Vector.ofFn fun k => Config.drawByte (n + 14 + k.val)
    ram := []
    ramEpoch := n
    rxHeld := none }

/-- The block right after construction (R470), then the NIC reset (R471, R472). -/
def powerOn (s : State) : State :=
  (nicReset
    { s with
      bus := portMap
      master := PicChip.reset
      slave := PicChip.reset
      nic := s.nic.drawn s.draws }).useDraws powerOnDraws

/-- SYS.POWER_ON (R470). -/
def execSysPowerOn (s : State) : Out := .next ((powerOn s).returning .done)

end Sys2Proof.Machine
end

