-- ==== Sys2Proof/Machine/Dispatch.lean ====
section
/-! DEFINITION. One arm for each instruction: its meaning. -/

namespace Sys2Proof.Machine

def exec (i : Instr) (s : State) : Host.Outcome State Fault Refusal :=
  match i with
  | .picIcw1 c v => Sys2Proof.Machine.execPicIcw1 c v s
  | .picOcw2EoiSpec c v => Sys2Proof.Machine.execPicOcw2EoiSpec c v s
  | .picOcw2Eoi c v => Sys2Proof.Machine.execPicOcw2Eoi c v s
  | .picOcw2Nop c v => Sys2Proof.Machine.execPicOcw2Nop c v s
  | .picOcw3 c v => Sys2Proof.Machine.execPicOcw3 c v s
  | .picIcw2 c v => Sys2Proof.Machine.execPicIcw2 c v s
  | .picIcw3 c v => Sys2Proof.Machine.execPicIcw3 c v s
  | .picIcw4 c v => Sys2Proof.Machine.execPicIcw4 c v s
  | .picImrW c v => Sys2Proof.Machine.execPicImrW c v s
  | .picDataR c => Sys2Proof.Machine.execPicDataR c s
  | .picCmdR c => Sys2Proof.Machine.execPicCmdR c s
  | .picWide c p d w v => Sys2Proof.Machine.execPicWide c p d w v s
  | .nicCrR => Sys2Proof.Machine.execNicCrR s
  | .nicCrW v => Sys2Proof.Machine.execNicCrW v s
  | .nicPstartW v => Sys2Proof.Machine.execNicPstartW v s
  | .nicPstopW v => Sys2Proof.Machine.execNicPstopW v s
  | .nicBnryW v => Sys2Proof.Machine.execNicBnryW v s
  | .nicTpsrW v => Sys2Proof.Machine.execNicTpsrW v s
  | .nicTbcr0W v => Sys2Proof.Machine.execNicTbcr0W v s
  | .nicTbcr1W v => Sys2Proof.Machine.execNicTbcr1W v s
  | .nicIsrW v => Sys2Proof.Machine.execNicIsrW v s
  | .nicRsar0W v => Sys2Proof.Machine.execNicRsar0W v s
  | .nicRsar1W v => Sys2Proof.Machine.execNicRsar1W v s
  | .nicRbcr0W v => Sys2Proof.Machine.execNicRbcr0W v s
  | .nicRbcr1W v => Sys2Proof.Machine.execNicRbcr1W v s
  | .nicRcrW v => Sys2Proof.Machine.execNicRcrW v s
  | .nicTcrW v => Sys2Proof.Machine.execNicTcrW v s
  | .nicDcrW v => Sys2Proof.Machine.execNicDcrW v s
  | .nicImrW v => Sys2Proof.Machine.execNicImrW v s
  | .nicBnryR => Sys2Proof.Machine.execNicBnryR s
  | .nicIsrR => Sys2Proof.Machine.execNicIsrR s
  | .nicInvalid o pg d w v => Sys2Proof.Machine.execNicInvalid o pg d w v s
  | .nicParR k => Sys2Proof.Machine.execNicParR k s
  | .nicParW k v => Sys2Proof.Machine.execNicParW k v s
  | .nicCurrR => Sys2Proof.Machine.execNicCurrR s
  | .nicCurrW v => Sys2Proof.Machine.execNicCurrW v s
  | .nicMarR k => Sys2Proof.Machine.execNicMarR k s
  | .nicMarW k v => Sys2Proof.Machine.execNicMarW k v s
  | .nicPstartR => Sys2Proof.Machine.execNicPstartR s
  | .nicPstopR => Sys2Proof.Machine.execNicPstopR s
  | .nicTpsrR => Sys2Proof.Machine.execNicTpsrR s
  | .nicRcrR => Sys2Proof.Machine.execNicRcrR s
  | .nicTcrR => Sys2Proof.Machine.execNicTcrR s
  | .nicDcrR => Sys2Proof.Machine.execNicDcrR s
  | .nicImrR => Sys2Proof.Machine.execNicImrR s
  | .nicDataIn w => Sys2Proof.Machine.execNicDataIn w s
  | .nicDataOut w v => Sys2Proof.Machine.execNicDataOut w v s
  | .nicBadwidth o d w v => Sys2Proof.Machine.execNicBadwidth o d w v s
  | .nicResetW w v => Sys2Proof.Machine.execNicResetW w v s
  | .nicResetR w => Sys2Proof.Machine.execNicResetR w s
  | .busExt port d w v => Sys2Proof.Machine.execBusExt port d w v s
  | .busUnmapped port d w v => Sys2Proof.Machine.execBusUnmapped port d w v s
  | .picRaise line => Sys2Proof.Machine.execPicRaise line s
  | .picLower line => Sys2Proof.Machine.execPicLower line s
  | .picPending => Sys2Proof.Machine.execPicPending s
  | .picAck => Sys2Proof.Machine.execPicAck s
  | .nicRxPoll => Sys2Proof.Machine.execNicRxPoll s
  | .nicRxDeliver => Sys2Proof.Machine.execNicRxDeliver s
  | .sysPowerOn => Sys2Proof.Machine.execSysPowerOn s

end Sys2Proof.Machine
end

