-- ==== Sys2Proof/WellFormed.lean ====
section
/-!
DEFINITION. Which terms of `Instr` a non-reserved access descriptor stands for: the conditions of the decode maps of
30_encoding.md R149 and R154 on the operands. `v` is 0 for an IN (R143).
-/

namespace Sys2Proof

open Sys2Proof.Machine

/-- The data byte of a descriptor is 0 for an IN (30_encoding.md R142, R143). -/
def Dir.dataOk (d : Dir) (v : Byte) : Bool :=
  match d with
  | .input => v == 0
  | .output => true

/-- An invalid register slot (43_ne2000_regs.md R304): offsets 0x11 to 0x1E at any page and width, and a width-1 access to
a slot of offsets 0x01 to 0x0F that holds no register. -/
def invalidSlot (o : BitVec 5) (pg : BitVec 2) (d : Dir) (w : Width) : Bool :=
  (0x11 ≤ o.toNat && o.toNat ≤ 0x1E) || (1 ≤ o.toNat && o.toNat ≤ 0x0F && w == .w1 && (nicSlot pg o d 0).isNone)

/-- A width the slot does not take (43_ne2000_regs.md R305): width 2 or 4 at offsets 0x00 to 0x0F, width 4 at the data port
0x10. (Width 2 at the data port decodes as DATA_IN or DATA_OUT, whose rule tests WTS, 30_encoding.md R154.) -/
def badWidthSlot (o : BitVec 5) (w : Width) : Bool :=
  (o.toNat ≤ 0x0F && w != .w1) || (o.toNat == 0x10 && w == .w4)

/-- An instruction that some non-reserved descriptor encodes. -/
def Instr.wf : Instr → Bool
  | .picIcw1 _ v => v.getLsbD 4
  | .picOcw2EoiSpec _ v => !v.getLsbD 4 && !v.getLsbD 3 && v.getLsbD 5 && v.getLsbD 6
  | .picOcw2Eoi _ v => !v.getLsbD 4 && !v.getLsbD 3 && v.getLsbD 5 && !v.getLsbD 6
  | .picOcw2Nop _ v => !v.getLsbD 4 && !v.getLsbD 3 && !v.getLsbD 5
  | .picOcw3 _ v => !v.getLsbD 4 && v.getLsbD 3
  | .picWide _ _ d w v => w != .w1 && d.dataOk v
  | .nicInvalid o pg d w v => invalidSlot o pg d w && d.dataOk v
  | .nicDataIn w => w != .w4
  | .nicDataOut w _ => w != .w4
  | .nicBadwidth o d w v => badWidthSlot o w && d.dataOk v
  | .busExt port d _ v => ((busDevice portMap port).map deviceIsExternal == some true) && d.dataOk v
  | .busUnmapped port d _ v => (busDevice portMap port).isNone && d.dataOk v
  | .picIcw2 _ _ | .picIcw3 _ _ | .picIcw4 _ _ | .picImrW _ _ | .picDataR _ | .picCmdR _
  | .nicCrR | .nicCrW _ | .nicPstartW _ | .nicPstopW _ | .nicBnryW _ | .nicTpsrW _ | .nicTbcr0W _ | .nicTbcr1W _
  | .nicIsrW _ | .nicRsar0W _ | .nicRsar1W _ | .nicRbcr0W _ | .nicRbcr1W _ | .nicRcrW _ | .nicTcrW _ | .nicDcrW _
  | .nicImrW _ | .nicBnryR | .nicIsrR | .nicParR _ | .nicParW _ _ | .nicCurrR | .nicCurrW _ | .nicMarR _ | .nicMarW _ _
  | .nicPstartR | .nicPstopR | .nicTpsrR | .nicRcrR | .nicTcrR | .nicDcrR | .nicImrR | .nicResetW _ _ | .nicResetR _
  | .picRaise _ | .picLower _ | .picPending | .picAck | .nicRxPoll | .nicRxDeliver | .sysPowerOn => true

end Sys2Proof
end

