-- ==== Sys2Proof/Decode.lean ====
section
/-!
DEFINITION. The decoder of access descriptors (30_encoding.md R140 to R159), total on every 32-bit word and rejecting each
reserved word by name (R146), and after it the encoder, written from the same layouts.
-/

namespace Sys2Proof

open Sys2Proof.Machine

/-! ## Fields of a descriptor -/

/-- The fields of format PIO (R142) without the format bit. -/
structure PioFields where
  c : BitVec 2
  v : Byte
  pg : BitVec 2
  w : BitVec 2
  d : BitVec 1
  port : Port
  deriving DecidableEq, Repr

/-- The PIO fields of a descriptor: `[30:29]c [28:21]v [20:19]pg [18:17]w [16]d [15:0]port` (R142). -/
def pioFields (x : Descriptor) : PioFields where
  c := x.extractLsb' 29 2
  v := x.extractLsb' 21 8
  pg := x.extractLsb' 19 2
  w := x.extractLsb' 17 2
  d := x.extractLsb' 16 1
  port := x.extractLsb' 0 16

/-- The descriptor of a PIO access: format bit 0 and the fields in their places (R142). -/
def pioWord (f : PioFields) : Descriptor := (0#1 ++ f.c ++ f.v ++ f.pg ++ f.w ++ f.d ++ f.port : BitVec 32)

/-- The descriptor of an event: format bit 1, reserved bits 0, `[23:20]code [15:0]arg` (R144). -/
def evtWord (code : BitVec 4) (arg : BitVec 16) : Descriptor := (1#1 ++ 0#7 ++ code ++ 0#4 ++ arg : BitVec 32)

/-- The width of a width code; 0b11 is reserved (R142, R146). -/
def widthOfCode (w : BitVec 2) : Option Width :=
  match w.toNat with
  | 0 => some .w1
  | 1 => some .w2
  | 2 => some .w4
  | _ => none

/-- The width code of a width (R142). -/
def codeOfWidth : Width → BitVec 2
  | .w1 => 0
  | .w2 => 1
  | .w4 => 2

/-- The direction of bit `d` (R142). -/
def dirOfBit (d : BitVec 1) : Dir := if d = 1 then .output else .input

/-- Bit `d` of a direction (R142). -/
def bitOfDir : Dir → BitVec 1
  | .input => 0
  | .output => 1

/-- `port[0]` of a PIC port: even is the command port, odd the data port (R141). -/
def picPortOf (port : Port) : PicPort := if port.getLsbD 0 then .data else .command

/-- The four PIC ports, `port & 0xFF7E = 0x0020` (R141). -/
def isPicPort (port : Port) : Bool := port &&& 0xFF7E == 0x0020

/-- The 32 NIC ports, `port & 0xFFE0 = 0x0300` (R143, R154). -/
def isNicPort (port : Port) : Bool := port &&& 0xFFE0 == 0x0300

/-- The chip of a PIC port, `port[7]` (R141). -/
def chipOfPort (port : Port) : Chip := if port.getLsbD 7 then .slave else .master

/-! ## The decoder -/

/-- The command byte of a PIC command-port OUT, by the byte alone (R149, 41_pic_ports.md R201). -/
def decodePicCommand (chip : Chip) (v : Byte) : Instr :=
  if v.getLsbD 4 then .picIcw1 chip v
  else if v.getLsbD 3 then .picOcw3 chip v
  else if v.getLsbD 5 then
    if v.getLsbD 6 then .picOcw2EoiSpec chip v else .picOcw2Eoi chip v
  else .picOcw2Nop chip v

/-- The data byte of a PIC data-port OUT, by the initialization counter `c` (R149). -/
def decodePicData (chip : Chip) (c : BitVec 2) (v : Byte) : Instr :=
  match c.toNat with
  | 1 => .picIcw2 chip v
  | 2 => .picIcw3 chip v
  | 3 => .picIcw4 chip v
  | _ => .picImrW chip v

/-- The PIC decode map (R149). -/
def decodePic (chip : Chip) (c : BitVec 2) (p : PicPort) (d : Dir) (w : Width) (v : Byte) : Instr :=
  match w with
  | .w1 =>
    match d, p with
    | .input, .command => .picCmdR chip
    | .input, .data => .picDataR chip
    | .output, .command => decodePicCommand chip v
    | .output, .data => decodePicData chip c v
  | .w2 => .picWide chip p d .w2 v
  | .w4 => .picWide chip p d .w4 v

/-- A width-1 access at NIC offsets 0x00 to 0x0F (R154, 10_state.md R50). -/
def decodeNicRegister (o : BitVec 5) (pg : BitVec 2) (d : Dir) (v : Byte) : Instr :=
  if o = 0 then
    match d with
    | .input => .nicCrR
    | .output => .nicCrW v
  else (nicSlot pg o d v).getD (.nicInvalid o pg d .w1 v)

/-- The NE2000 decode map (R154), `o = port & 0x1F`. -/
def decodeNic (o : BitVec 5) (pg : BitVec 2) (d : Dir) (w : Width) (v : Byte) : Instr :=
  if o.toNat ≤ 0x0F then
    if w = .w1 then decodeNicRegister o pg d v else .nicBadwidth o d w v
  else if o.toNat = 0x10 then
    if w = .w4 then .nicBadwidth o d w v
    else
      match d with
      | .input => .nicDataIn w
      | .output => .nicDataOut w v
  else if o.toNat = 0x1F then
    match d with
    | .input => .nicResetR w
    | .output => .nicResetW w v
  else .nicInvalid o pg d w v

/-- A port access routed by the device of its port (R148 step 3, 40_iobus.md R180). -/
def decodeDevice (dev : Option Device) (f : PioFields) (d : Dir) (w : Width) (v : Byte) : Instr :=
  match dev with
  | none => .busUnmapped f.port d w v
  | some .picMaster => decodePic .master f.c (picPortOf f.port) d w v
  | some .picSlave => decodePic .slave f.c (picPortOf f.port) d w v
  | some .nic => decodeNic (f.port.extractLsb' 0 5) f.pg d w v
  | some .pit => .busExt f.port d w v
  | some .keyboard => .busExt f.port d w v
  | some .rtc => .busExt f.port d w v
  | some .com1 => .busExt f.port d w v

/-- A PIO descriptor (R148): width code 0b11 is reserved; the `v` of an IN is not read (R158). -/
def decodePio (bus : List BusRange) (f : PioFields) : Except Reserved Instr :=
  match widthOfCode f.w with
  | none => .error .widthCode
  | some w =>
    match dirOfBit f.d with
    | .input => .ok (decodeDevice (busDevice bus f.port) f .input w 0)
    | .output => .ok (decodeDevice (busDevice bus f.port) f .output w f.v)

/-- An event whose argument must be 0 (R144, R146). -/
def decodeNoArg (arg : BitVec 16) (i : Instr) : Except Reserved Instr :=
  if arg = 0 then .ok i else .error .eventArg

/-- The event codes (R145). -/
def decodeEvent (code : BitVec 4) (arg : BitVec 16) : Except Reserved Instr :=
  match code.toNat with
  | 0 => .ok (.picRaise arg)
  | 1 => .ok (.picLower arg)
  | 2 => decodeNoArg arg .picPending
  | 3 => decodeNoArg arg .picAck
  | 4 => decodeNoArg arg .nicRxPoll
  | 5 => decodeNoArg arg .nicRxDeliver
  | 6 => decodeNoArg arg .sysPowerOn
  | _ => .error .eventCode

/-- An EVT descriptor: bits 30:24 and 19:16 must be 0 (R144, R146). -/
def decodeEvt (x : Descriptor) : Except Reserved Instr :=
  if x.extractLsb' 24 7 = 0 ∧ x.extractLsb' 16 4 = 0 then decodeEvent (x.extractLsb' 20 4) (x.extractLsb' 0 16)
  else .error .eventBits

/-- Decode of a descriptor under a BUS table (R148): total, and a reserved word is rejected by name. -/
def decodeWith (bus : List BusRange) (x : Descriptor) : Except Reserved Instr :=
  if x.getLsbD 31 then decodeEvt x else decodePio bus (pioFields x)

/-- Decode of a descriptor under the port map of 10_state.md R38. -/
def decode (x : Descriptor) : Except Reserved Instr := decodeWith portMap x

/-- The instruction the decoder reads from the first `nbits` bits of `w`, the bits above them 0; none where it rejects. A
descriptor is one 32-bit word, bit 0 its least significant. -/
def decodeTableWord (nbits w : Nat) : Option Instr :=
  match decode (BitVec.ofNat 32 (w % 2 ^ nbits)) with
  | .ok i => some i
  | .error _ => none

/-! ## The encoder -/

/-- The port of a PIC chip's command or data port (R141). -/
def picPortNumber (c : Chip) (p : PicPort) : Port :=
  match c, p with
  | .master, .command => 0x20
  | .master, .data => 0x21
  | .slave, .command => 0xA0
  | .slave, .data => 0xA1

/-- The port of a NIC offset, base 0x300 (00_scope.md R12). -/
def nicPortNumber (o : BitVec 5) : Port := 0x300 ||| o.setWidth 16

/-- A width-1 OUT of `v` to a PIC port, with the counter field `c`. -/
def encodePicOut (c pg : BitVec 2) (chip : Chip) (p : PicPort) (v : Byte) : Descriptor :=
  pioWord ⟨c, v, pg, 0, 1, picPortNumber chip p⟩

/-- A width-1 IN from a PIC port. -/
def encodePicIn (c pg : BitVec 2) (chip : Chip) (p : PicPort) : Descriptor :=
  pioWord ⟨c, 0, pg, 0, 0, picPortNumber chip p⟩

/-- A width-1 OUT of `v` to a NIC offset on page `pg`. -/
def encodeNicOut (c pg : BitVec 2) (o : BitVec 5) (v : Byte) : Descriptor :=
  pioWord ⟨c, v, pg, 0, 1, nicPortNumber o⟩

/-- A width-1 IN from a NIC offset on page `pg`. -/
def encodeNicIn (c pg : BitVec 2) (o : BitVec 5) : Descriptor :=
  pioWord ⟨c, 0, pg, 0, 0, nicPortNumber o⟩

/-- The descriptor of an instruction. `c` and `pg` fill the two mode fields (R143) of the forms whose decode does not read
them; where the form is one of a counter value or of a page, the field holds that value. -/
def encodeAt (c pg : BitVec 2) : Instr → Descriptor
  | .picIcw1 chip v => encodePicOut c pg chip .command v
  | .picOcw2EoiSpec chip v => encodePicOut c pg chip .command v
  | .picOcw2Eoi chip v => encodePicOut c pg chip .command v
  | .picOcw2Nop chip v => encodePicOut c pg chip .command v
  | .picOcw3 chip v => encodePicOut c pg chip .command v
  | .picIcw2 chip v => encodePicOut 1 pg chip .data v
  | .picIcw3 chip v => encodePicOut 2 pg chip .data v
  | .picIcw4 chip v => encodePicOut 3 pg chip .data v
  | .picImrW chip v => encodePicOut 0 pg chip .data v
  | .picDataR chip => encodePicIn c pg chip .data
  | .picCmdR chip => encodePicIn c pg chip .command
  | .picWide chip p d w v => pioWord ⟨c, v, pg, codeOfWidth w, bitOfDir d, picPortNumber chip p⟩
  | .nicCrR => encodeNicIn c pg 0x00
  | .nicCrW v => encodeNicOut c pg 0x00 v
  | .nicPstartW v => encodeNicOut c 0 0x01 v
  | .nicPstopW v => encodeNicOut c 0 0x02 v
  | .nicBnryW v => encodeNicOut c 0 0x03 v
  | .nicTpsrW v => encodeNicOut c 0 0x04 v
  | .nicTbcr0W v => encodeNicOut c 0 0x05 v
  | .nicTbcr1W v => encodeNicOut c 0 0x06 v
  | .nicIsrW v => encodeNicOut c 0 0x07 v
  | .nicRsar0W v => encodeNicOut c 0 0x08 v
  | .nicRsar1W v => encodeNicOut c 0 0x09 v
  | .nicRbcr0W v => encodeNicOut c 0 0x0A v
  | .nicRbcr1W v => encodeNicOut c 0 0x0B v
  | .nicRcrW v => encodeNicOut c 0 0x0C v
  | .nicTcrW v => encodeNicOut c 0 0x0D v
  | .nicDcrW v => encodeNicOut c 0 0x0E v
  | .nicImrW v => encodeNicOut c 0 0x0F v
  | .nicBnryR => encodeNicIn c 0 0x03
  | .nicIsrR => encodeNicIn c 0 0x07
  | .nicInvalid o p d w v => pioWord ⟨c, v, p, codeOfWidth w, bitOfDir d, nicPortNumber o⟩
  | .nicParR k => encodeNicIn c 1 (BitVec.ofNat 5 (0x01 + k.val))
  | .nicParW k v => encodeNicOut c 1 (BitVec.ofNat 5 (0x01 + k.val)) v
  | .nicCurrR => encodeNicIn c 1 0x07
  | .nicCurrW v => encodeNicOut c 1 0x07 v
  | .nicMarR k => encodeNicIn c 1 (BitVec.ofNat 5 (0x08 + k.val))
  | .nicMarW k v => encodeNicOut c 1 (BitVec.ofNat 5 (0x08 + k.val)) v
  | .nicPstartR => encodeNicIn c 2 0x01
  | .nicPstopR => encodeNicIn c 2 0x02
  | .nicTpsrR => encodeNicIn c 2 0x04
  | .nicRcrR => encodeNicIn c 2 0x0C
  | .nicTcrR => encodeNicIn c 2 0x0D
  | .nicDcrR => encodeNicIn c 2 0x0E
  | .nicImrR => encodeNicIn c 2 0x0F
  | .nicDataIn w => pioWord ⟨c, 0, pg, codeOfWidth w, 0, nicPortNumber 0x10⟩
  | .nicDataOut w v => pioWord ⟨c, v, pg, codeOfWidth w, 1, nicPortNumber 0x10⟩
  | .nicBadwidth o d w v => pioWord ⟨c, v, pg, codeOfWidth w, bitOfDir d, nicPortNumber o⟩
  | .nicResetW w v => pioWord ⟨c, v, pg, codeOfWidth w, 1, nicPortNumber 0x1F⟩
  | .nicResetR w => pioWord ⟨c, 0, pg, codeOfWidth w, 0, nicPortNumber 0x1F⟩
  | .busExt port d w v => pioWord ⟨c, v, pg, codeOfWidth w, bitOfDir d, port⟩
  | .busUnmapped port d w v => pioWord ⟨c, v, pg, codeOfWidth w, bitOfDir d, port⟩
  | .picRaise line => evtWord 0 line
  | .picLower line => evtWord 1 line
  | .picPending => evtWord 2 0
  | .picAck => evtWord 3 0
  | .nicRxPoll => evtWord 4 0
  | .nicRxDeliver => evtWord 5 0
  | .sysPowerOn => evtWord 6 0

/-- The descriptor of an instruction with the free mode fields 0, as 95_test_vectors.md writes them for counter 0 and page
0. -/
def encode (i : Instr) : Descriptor := encodeAt 0 0 i

end Sys2Proof
end

