-- ==== Sys2Proof/Machine/Fetch.lean ====
section
/-!
DEFINITION. How a step gets its descriptor. An agent brings a move; the mode fields and `v` of its descriptor are filled at
the moment of the step from the state the step starts in (30_encoding.md R143), and D is the first `width` of the host's
bytes (00_scope.md R19).
-/

namespace Sys2Proof.Machine

/-- The descriptor of a move with `c`, `pg` and `v` filled from state and D (R143). An event has no such field. -/
def fillDescriptor (s : State) (m : Move) : Descriptor :=
  if m.x.getLsbD 31 then m.x
  else
    pioWord
      { pioFields m.x with
        c := if isPicPort (pioFields m.x).port then (s.chip (chipOfPort (pioFields m.x).port)).counter else 0
        pg := if isNicPort (pioFields m.x).port then s.nic.page else 0
        v := match dirOfBit (pioFields m.x).d with
          | .output => m.bytes.b0
          | .input => 0 }

/-- The buffer D at the start of a move: the host's bytes for an OUT, nothing yet for an IN or an event (00_scope.md
R10). -/
def moveBuffer (m : Move) : List Byte :=
  if m.x.getLsbD 31 then []
  else
    match dirOfBit (pioFields m.x).d, widthOfCode (pioFields m.x).w with
    | .output, some w => m.bytes.firstBytes w
    | .output, none => []
    | .input, _ => []

/-- The state in which a move's instruction runs: the move is taken off the agenda, D and the environment's answers are the
move's, and one draw is used for the answers (log entries 1, 5, 9). -/
def State.beginMove (s : State) (m : Move) (rest : List Move) : State :=
  { s with agenda := rest, d := moveBuffer m, result := .done, answers := m.answers, draws := s.draws + 1 }

/-- The mode fields of a descriptor written back into the state they are copies of (R143): the counter of the addressed
PIC chip, or the NIC's page. -/
def State.withModes (s : State) (x : Descriptor) : State :=
  if x.getLsbD 31 then s
  else if isPicPort (pioFields x).port then
    s.withChip (chipOfPort (pioFields x).port)
      { s.chip (chipOfPort (pioFields x).port) with counter := (pioFields x).c }
  else if isNicPort (pioFields x).port then
    { s with nic := { s.nic with cr := (pioFields x).pg ++ s.nic.cr.extractLsb' 0 6 } }
  else s

/-- An agent brings the descriptor `x` next, with D[0] = `v` and the other host bytes 0; the environment's answers are
free. -/
def State.withMove (s : State) (x : Descriptor) : State :=
  { s with agenda := ⟨x, ⟨(pioFields x).v, 0, 0, 0⟩, freeAnswers s.draws⟩ :: s.agenda }

end Sys2Proof.Machine
end

