-- ==== Sys2Proof/Machine/Step.lean ====
section
/-!
DEFINITION. One step of the block (00_scope.md R8): the next move of the agenda is decoded under the BUS table and its
instruction runs. With no move waiting no agent takes a step, and nothing changes.
-/

namespace Sys2Proof.Machine

/-- One atomic step (00_scope.md R8, 30_encoding.md R148). A reserved descriptor is refused by name (R146). -/
def step (s : State) : Host.Outcome State Fault Refusal :=
  match s.agenda with
  | [] => .next s
  | m :: rest =>
    match decodeWith s.bus (fillDescriptor s m) with
    | .ok i => exec i (s.beginMove m rest)
    | .error why => .refused (.reservedDescriptor why)

/-- The state with the descriptor of the low `nbits` bits of `w` brought next: it stands first on the agenda, and the state
its mode fields are copies of holds their values (log entry 2). -/
def State.withFetchWord (s : State) (nbits w : Nat) : State :=
  (s.withModes (BitVec.ofNat 32 (w % 2 ^ nbits))).withMove (BitVec.ofNat 32 (w % 2 ^ nbits))

end Sys2Proof.Machine
end

