-- ==== Sys2Proof/Safety.lean ====
section
/-!
DEFINITION. The terms in which claims speak of safe states: the invariant that every step keeps, and the relations that say
which part of the block a step leaves alone.
-/

namespace Sys2Proof.Machine

/-- The initialization counter expects a word only if ICW1 asked for it: ICW3 in cascade mode with ICW4 wanted
(41_pic_ports.md R206), ICW4 only when wanted (R206, R207). -/
def PicChip.CounterOk (p : PicChip) : Prop :=
  (p.counter = 2 → p.needIcw4 = true ∧ p.single = false) ∧ (p.counter = 3 → p.needIcw4 = true)

/-- The command register after any write or reset (10_state.md R51): TXP reads 0, and STA and STP are not both set. -/
def Nic.CrOk (n : Nic) : Prop := n.cr.getLsbD 2 = false ∧ (n.cr.getLsbD 0 = true → n.cr.getLsbD 1 = false)

/-- Every frame handed to the host has a legal length (44_ne2000_cr_dma_tx.md R350, 00_scope.md R12). -/
def State.FramesOk (s : State) : Prop := ∀ h ∈ s.hostWrites, minTxFrame ≤ h.frame.length ∧ h.frame.length ≤ maxFrame

/-- The invariant of the block. -/
structure State.Inv (s : State) : Prop where
  /-- RAM is in canonical form, with no address outside its 65536 bytes (10_state.md R41). -/
  ram : s.nic.ram.wf
  /-- The BUS table is the port map (10_state.md R38). -/
  bus : s.bus = portMap
  /-- CR reads as R51 says. -/
  cr : s.nic.CrOk
  /-- The remote-DMA progress stays below the largest count (44_ne2000_cr_dma_tx.md R343). -/
  progress : s.nic.dmaProgress < 65535
  /-- The master's counter is one its mode flags allow. -/
  masterCounter : s.master.CounterOk
  /-- The slave's counter is one its mode flags allow. -/
  slaveCounter : s.slave.CounterOk
  /-- No frame of an illegal length reached the host. -/
  frames : s.FramesOk

/-- Two states of one chip that differ in IRR alone. -/
def PicChip.SameButIrr (p q : PicChip) : Prop := q = { p with irr := q.irr }

/-- Two states that differ in the PIC's request registers alone: what the NIC's calls `pic_raise` and `pic_lower` can do
(00_scope.md R15, 42_pic_lines.md R251). -/
def SameButRequests (s t : State) : Prop :=
  t = { s with master := { s.master with irr := t.master.irr }, slave := { s.slave with irr := t.slave.irr } }

/-- Two states whose block state is the same: PIC, NIC, BUS table and parameters (10_state.md R30, R38, R40). -/
def SameBlock (s t : State) : Prop :=
  t.master = s.master ∧ t.slave = s.slave ∧ t.nic = s.nic ∧ t.bus = s.bus ∧ t.params = s.params

/-- Line `i` of a chip is a candidate, in the words of 42_pic_lines.md R243. -/
def PicChip.Candidate (p : PicChip) (i : Nat) : Prop :=
  p.irr.getLsbD i = true ∧ p.imr.getLsbD i = false ∧ p.isr.getLsbD i = false

/-- `i` is the least index of a set bit of `b` (41_pic_ports.md R203, R213). -/
def IsLowestSet (b : Byte) (i : Nat) : Prop := i < 8 ∧ b.getLsbD i = true ∧ ∀ j, j < i → b.getLsbD j = false

/-- The part of the block whose rules an instruction runs (00_scope.md R2): the PIC, the NIC, the BUS, or the construction
of all three. -/
inductive Part where
  | pic
  | nic
  | bus
  | construction
  deriving DecidableEq, Repr

/-- The part of an instruction. -/
def partOf : Instr → Part
  | .picIcw1 _ _ | .picOcw2EoiSpec _ _ | .picOcw2Eoi _ _ | .picOcw2Nop _ _ | .picOcw3 _ _ | .picIcw2 _ _ | .picIcw3 _ _
  | .picIcw4 _ _ | .picImrW _ _ | .picDataR _ | .picCmdR _ | .picWide _ _ _ _ _ | .picRaise _ | .picLower _ | .picPending
  | .picAck => .pic
  | .nicCrR | .nicCrW _ | .nicPstartW _ | .nicPstopW _ | .nicBnryW _ | .nicTpsrW _ | .nicTbcr0W _ | .nicTbcr1W _
  | .nicIsrW _ | .nicRsar0W _ | .nicRsar1W _ | .nicRbcr0W _ | .nicRbcr1W _ | .nicRcrW _ | .nicTcrW _ | .nicDcrW _
  | .nicImrW _ | .nicBnryR | .nicIsrR | .nicInvalid _ _ _ _ _ | .nicParR _ | .nicParW _ _ | .nicCurrR | .nicCurrW _
  | .nicMarR _ | .nicMarW _ _ | .nicPstartR | .nicPstopR | .nicTpsrR | .nicRcrR | .nicTcrR | .nicDcrR | .nicImrR
  | .nicDataIn _ | .nicDataOut _ _ | .nicBadwidth _ _ _ _ | .nicResetW _ _ | .nicResetR _ | .nicRxPoll | .nicRxDeliver =>
    .nic
  | .busExt _ _ _ _ | .busUnmapped _ _ _ _ => .bus
  | .sysPowerOn => .construction

end Sys2Proof.Machine
end

