-- ==== Sys2Proof/Certificates/Slice0/Obligations.lean ====
section
/-!
DEFINITION. The statements for the provers. Each docstring says which rule of spec/ a statement formalises. Results are
written as equations on the whole next state, so that each is its own frame: whatever a statement does not name is as
before. `result` is the access result (40_iobus.md R184), `d` the buffer D (00_scope.md R10).
-/

open Sys2Proof Sys2Proof.Machine

/-! ## Descriptors (30_encoding.md) -/

/-- Decode and encode agree on every well-formed instruction, whatever stands in the mode fields its form does not read
(R142, R144, R149, R154). -/
def Obligations.DecodeEncodeRoundTrip : Prop :=
  ∀ (c pg : BitVec 2) (i : Instr), i.wf = true → decode (encodeAt c pg i) = .ok i

/-- Every descriptor that decodes stands for a well-formed instruction (R146, R149, R154). -/
def Obligations.DecodedIsWellFormed : Prop := ∀ (x : Descriptor) (i : Instr), decode x = .ok i → i.wf = true

/-- The decoder rejects exactly the reserved descriptors (R146). -/
def Obligations.RejectedIffReserved : Prop :=
  ∀ x : Descriptor,
    (∃ why, decode x = .error why) ↔
      (x.getLsbD 31 = false ∧ x.extractLsb' 17 2 = 0b11) ∨
      (x.getLsbD 31 = true ∧ (x.extractLsb' 24 7 ≠ 0 ∨ x.extractLsb' 16 4 ≠ 0)) ∨
      (x.getLsbD 31 = true ∧ 7 ≤ (x.extractLsb' 20 4).toNat) ∨
      (x.getLsbD 31 = true ∧ x.extractLsb' 0 16 ≠ 0 ∧ x.extractLsb' 20 4 ≠ 0 ∧ x.extractLsb' 20 4 ≠ 1)

/-- Worked encodings of section 6 decode to the rows the spec names. -/
def Obligations.WorkedEncodingsDecode : Prop :=
  decode 0x24010021 = .ok (.picIcw2 .master 0x20) ∧ decode 0x0C410020 = .ok (.picOcw2EoiSpec .master 0x62) ∧
  decode 0x04210300 = .ok (.nicCrW 0x21) ∧ decode 0x00080307 = .ok .nicCurrR ∧
  decode 0x0811030F = .ok (.nicInvalid 0x0F 2 .output .w1 0x40) ∧ decode 0x00040310 = .ok (.nicBadwidth 0x10 .input .w4 0) ∧
  decode 0x000003F8 = .ok (.busExt 0x3F8 .input .w1 0) ∧ decode 0x00000080 = .ok (.busUnmapped 0x80 .input .w1 0) ∧
  decode 0x8000000A = .ok (.picRaise 10) ∧ decode 0x80300000 = .ok .picAck ∧ decode 0x80600000 = .ok .sysPowerOn

/-- The command of a width-1 OUT to a command port is chosen by the byte alone, and OCW2 and OCW3 leave the counter of both
chips unchanged (41_pic_ports.md R201). The effects they take in every counter state are `SpecificEoi`, `NonspecificEoi` and
`CommandsWithoutEoi`. -/
def Obligations.CommandByteDecode : Prop :=
  (∀ (chip : Chip) (c pg : BitVec 2) (v : Byte),
    decode (pioWord ⟨c, v, pg, 0, 1, picPortNumber chip .command⟩) =
      .ok (if v.getLsbD 4 then .picIcw1 chip v
        else if v.getLsbD 3 then .picOcw3 chip v
        else if v.getLsbD 5 && v.getLsbD 6 then .picOcw2EoiSpec chip v
        else if v.getLsbD 5 then .picOcw2Eoi chip v
        else .picOcw2Nop chip v)) ∧
  ∀ (chip other : Chip) (v : Byte) (s t : State),
    exec (.picOcw2EoiSpec chip v) s = .next t ∨ exec (.picOcw2Eoi chip v) s = .next t ∨
      exec (.picOcw2Nop chip v) s = .next t ∨ exec (.picOcw3 chip v) s = .next t →
    (t.chip other).counter = (s.chip other).counter

/-- The mode fields and `v` are filled from the state the step starts in, and every other field is the descriptor's
(R143). -/
def Obligations.FilledDescriptor : Prop :=
  ∀ (s : State) (m : Move), m.x.getLsbD 31 = false →
    (fillDescriptor s m).getLsbD 31 = false ∧
    (fillDescriptor s m).extractLsb' 29 2 =
      (if m.x.extractLsb' 0 16 &&& 0xFF7E = 0x0020 then
        (if m.x.getLsbD 7 then s.slave.counter else s.master.counter)
      else 0) ∧
    (fillDescriptor s m).extractLsb' 21 8 = (if m.x.getLsbD 16 then m.bytes.b0 else 0) ∧
    (fillDescriptor s m).extractLsb' 19 2 =
      (if m.x.extractLsb' 0 16 &&& 0xFFE0 = 0x0300 then s.nic.cr.extractLsb' 6 2 else 0) ∧
    (fillDescriptor s m).extractLsb' 0 19 = m.x.extractLsb' 0 19

/-- Two of the places where decoding depends on mode (R143, R159): a data-port OUT is the word the chip's counter expects,
and a NIC access at offset 7 reaches the register of the page in CR. How a step takes its move is the model's (log entries
1 and 3). -/
def Obligations.DecodeFollowsMode : Prop :=
  ∀ (s : State) (m : Move) (rest : List Move), s.bus = portMap → s.agenda = m :: rest → m.x.getLsbD 31 = false →
    m.x.extractLsb' 17 2 = 0 →
    (∀ chip : Chip, m.x.getLsbD 16 = true → m.x.extractLsb' 0 16 = picPortNumber chip .data →
      step s =
        exec
          (if (s.chip chip).counter = 1 then .picIcw2 chip m.bytes.b0
          else if (s.chip chip).counter = 2 then .picIcw3 chip m.bytes.b0
          else if (s.chip chip).counter = 3 then .picIcw4 chip m.bytes.b0
          else .picImrW chip m.bytes.b0)
          (s.beginMove m rest)) ∧
    (m.x.getLsbD 16 = false → m.x.extractLsb' 0 16 = 0x307 →
      step s =
        exec
          (if s.nic.cr.extractLsb' 6 2 = 0 then .nicIsrR
          else if s.nic.cr.extractLsb' 6 2 = 1 then .nicCurrR
          else .nicInvalid 7 (s.nic.cr.extractLsb' 6 2) .input .w1 0)
          (s.beginMove m rest))

/-- A step runs the instruction its move decodes to, in the state with the move taken off the agenda, the move's buffer and
answers in place and one draw used. That an agent's move waits in State is the model's choice (log entries 1, 5 and 9). -/
def Obligations.StepRunsDecoded : Prop :=
  ∀ (s : State) (m : Move) (rest : List Move) (i : Instr), s.agenda = m :: rest →
    decodeWith s.bus (fillDescriptor s m) = .ok i →
    step s = exec i
      { s with agenda := rest, d := moveBuffer m, result := .done, answers := m.answers, draws := s.draws + 1 }

/-- With no move waiting no agent takes a step; a reserved descriptor is refused by name. Both are the model's form of
00_scope.md R8 and R146 (log entries 1 and 13). -/
def Obligations.IdleAndReservedMoves : Prop :=
  (∀ s : State, s.agenda = [] → step s = .next s) ∧
  ∀ (s : State) (m : Move) (rest : List Move) (why : Reserved), s.agenda = m :: rest →
    decodeWith s.bus (fillDescriptor s m) = .error why → step s = .refused (.reservedDescriptor why)

/-! ## Reset (70_reset_and_hazards.md) -/

/-- The values the spec gives the block right after power-on (R470 to R472, 10_state.md R30, R40). -/
def Obligations.ResetValues : Prop :=
  State.reset.master =
    { counter := 0, single := false, needIcw4 := false, level := false, aeoi := false, sfnm := false,
      imr := 0x00, irr := 0x00, isr := 0x00, offset := 0x00, readSel := .irr } ∧
  State.reset.slave = State.reset.master ∧ State.reset.bus = portMap ∧
  State.reset.nic.cr = 0x01 ∧ State.reset.nic.isr = 0x80 ∧ State.reset.nic.imr = 0x00 ∧
  State.reset.nic.dcr = State.reset.params.dcrReset ∧ State.reset.nic.pstart = 0x46 ∧ State.reset.nic.pstop = 0x80 ∧
  State.reset.nic.bnry = 0x46 ∧ State.reset.nic.curr = 0x46 ∧ State.reset.nic.tpsr = 0x40 ∧
  State.reset.nic.dmaProgress = 0 ∧ State.reset.nic.dmaArmed = false ∧ State.reset.nic.rxHeld = none ∧
  ∀ k : Fin 6, State.reset.nic.ramByte k = State.reset.params.mac[k] ∧
    State.reset.nic.ramByte (6 + k) = State.reset.params.mac[k]

/-- SYS.POWER_ON gives every field the value the spec states for it, from every state; the registers and the RAM that the
spec draws are left open. That the event may come again is the model's choice (log entry 12). -/
def Obligations.PowerOnEffect : Prop :=
  ∀ s : State, ∃ t, exec .sysPowerOn s = .next t ∧
    t.master = State.reset.master ∧ t.slave = State.reset.slave ∧ t.bus = portMap ∧
    t.nic = { t.nic with
      cr := 0x01, isr := 0x80, imr := 0x00, dcr := s.params.dcrReset, pstart := 0x46, pstop := 0x80, bnry := 0x46,
      curr := 0x46, tpsr := 0x40, dmaProgress := 0, dmaArmed := false, rxHeld := none } ∧
    (∀ k : Fin 6, t.nic.ramByte k = s.params.mac[k] ∧ t.nic.ramByte (6 + k) = s.params.mac[k]) ∧
    t = { s with
      master := t.master, slave := t.slave, bus := t.bus, nic := t.nic, draws := t.draws, result := .done }

/-- NIC.RESET_W performs the NIC reset for any width and value: the assignments of R471, the hidden state and the
`pic_lower` of R472, and every other NIC register, the rest of RAM and `rxHeld` unchanged (R310). -/
def Obligations.NicResetWrite : Prop :=
  ∀ (w : Width) (v : Byte) (s : State), ∃ t, exec (.nicResetW w v) s = .next t ∧
    t.nic = { s.nic with
      cr := 0x01, isr := 0x80, imr := 0x00, dcr := s.params.dcrReset, pstart := 0x46, pstop := 0x80, bnry := 0x46,
      curr := 0x46, tpsr := 0x40, ram := t.nic.ram, dmaProgress := 0, dmaArmed := false } ∧
    (∀ k : Fin 6, t.nic.ramByte k = s.params.mac[k] ∧ t.nic.ramByte (6 + k) = s.params.mac[k]) ∧
    (∀ x, 12 ≤ x → t.nic.ramByte x = s.nic.ramByte x) ∧
    t = picLower s.params.nicIrqLine { s with nic := t.nic, result := .ok }

/-! ## PIC command port and data port (41_pic_ports.md) -/

/-- ICW1 in every counter state: the addressed chip's registers, the other chip untouched (R200). -/
def Obligations.Icw1Effect : Prop :=
  ∀ (c : Chip) (v : Byte) (s : State), exec (.picIcw1 c v) s = .next
    ((s.withChip c { s.chip c with
      imr := 0x00, irr := 0x00, isr := 0x00, counter := 1, aeoi := false, sfnm := false, single := v.getLsbD 1,
      needIcw4 := v.getLsbD 0, level := v.getLsbD 3 }).returning .ok)

/-- A specific EOI clears the named ISR bit, set or not; on the master, line 2 forwards a non-specific EOI to the slave,
which clears the slave's lowest set ISR bit, if any, and nothing else (R202, R213). -/
def Obligations.SpecificEoi : Prop :=
  (∀ (v : Byte) (s : State), exec (.picOcw2EoiSpec .master v) s = .next
    { s with
      master := { s.master with isr := s.master.isr &&& ~~~(1#8 <<< (v.extractLsb' 0 3).toNat) }
      slave := if (v.extractLsb' 0 3).toNat = 2 then s.slave.nonspecificEoi else s.slave
      result := .ok }) ∧
  (∀ (v : Byte) (s : State), exec (.picOcw2EoiSpec .slave v) s = .next
    { s with
      slave := { s.slave with isr := s.slave.isr &&& ~~~(1#8 <<< (v.extractLsb' 0 3).toNat) }
      result := .ok }) ∧
  (∀ p : PicChip, p.isr = 0 → p.nonspecificEoi = p) ∧
  ∀ (p : PicChip) (j : Nat), IsLowestSet p.isr j → p.nonspecificEoi = { p with isr := p.isr &&& ~~~(1#8 <<< j) }

/-- A non-specific EOI clears the lowest set ISR bit of the addressed chip, or nothing; the master forwards it when that bit
is bit 2 (R203). -/
def Obligations.NonspecificEoi : Prop :=
  ∀ (c : Chip) (v : Byte) (s : State),
    ((s.chip c).isr = 0 → exec (.picOcw2Eoi c v) s = .next { s with result := .ok }) ∧
    ∀ i, IsLowestSet (s.chip c).isr i →
      exec (.picOcw2Eoi c v) s = .next
        (match c with
        | .master =>
          { s with
            master := { s.master with isr := s.master.isr &&& ~~~(1#8 <<< i) }
            slave := if i = 2 then s.slave.nonspecificEoi else s.slave
            result := .ok }
        | .slave => { s with slave := { s.slave with isr := s.slave.isr &&& ~~~(1#8 <<< i) }, result := .ok })

/-- An OCW2 without EOI changes nothing (R204); an OCW3 changes the read selector alone, and only with RR set (R205). -/
def Obligations.CommandsWithoutEoi : Prop :=
  ∀ (c : Chip) (v : Byte) (s : State),
    exec (.picOcw2Nop c v) s = .next { s with result := .ok } ∧
    exec (.picOcw3 c v) s = .next
      ((s.withChip c { s.chip c with
        readSel := if v.getLsbD 1 then (if v.getLsbD 0 then .isr else .irr) else (s.chip c).readSel }).returning .ok)

/-- A data-port OUT of width 1 is the word the counter names, and the four words, each with the counter it leaves (R206 to
R209). -/
def Obligations.DataPortWords : Prop :=
  (∀ (c : Chip) (counter pg : BitVec 2) (v : Byte),
    decode (pioWord ⟨counter, v, pg, 0, 1, picPortNumber c .data⟩) =
      .ok (if counter = 1 then .picIcw2 c v
        else if counter = 2 then .picIcw3 c v
        else if counter = 3 then .picIcw4 c v
        else .picImrW c v)) ∧
  ∀ (c : Chip) (v : Byte) (s : State),
    exec (.picIcw2 c v) s = .next
      ((s.withChip c { s.chip c with
        offset := v
        counter :=
          match (s.chip c).single, (s.chip c).needIcw4 with
          | false, true => 2
          | false, false => 0
          | true, true => 3
          | true, false => 0 }).returning .ok) ∧
    exec (.picIcw3 c v) s = .next
      ((s.withChip c { s.chip c with counter := if (s.chip c).needIcw4 then 3 else 0 }).returning .ok) ∧
    exec (.picIcw4 c v) s = .next
      ((s.withChip c { s.chip c with aeoi := v.getLsbD 1, sfnm := v.getLsbD 4, counter := 0 }).returning .ok) ∧
    exec (.picImrW c v) s = .next ((s.withChip c { s.chip c with imr := v }).returning .ok)

/-- Reads of a chip: the data port gives IMR in every counter state (R210), the command port the selected register (R211);
no block state changes. A width-1 IN decodes to these reads whatever the counter. -/
def Obligations.PicPortReads : Prop :=
  (∀ (c : Chip) (counter pg : BitVec 2) (v : Byte),
    decode (pioWord ⟨counter, v, pg, 0, 0, picPortNumber c .data⟩) = .ok (.picDataR c) ∧
    decode (pioWord ⟨counter, v, pg, 0, 0, picPortNumber c .command⟩) = .ok (.picCmdR c)) ∧
  ∀ (c : Chip) (s : State),
    exec (.picDataR c) s = .next { s with d := [(s.chip c).imr], result := .ok } ∧
    exec (.picCmdR c) s = .next
      { s with d := [if (s.chip c).readSel = .irr then (s.chip c).irr else (s.chip c).isr], result := .ok }

/-- Every PIC access of width 2 or 4, command or data, IN or OUT, faults (R212). -/
def Obligations.WidePicAccessFaults : Prop :=
  (∀ (c : Chip) (p : PicPort) (counter pg : BitVec 2) (v : Byte),
    decode (pioWord ⟨counter, v, pg, 1, 0, picPortNumber c p⟩) = .ok (.picWide c p .input .w2 0) ∧
    decode (pioWord ⟨counter, v, pg, 2, 0, picPortNumber c p⟩) = .ok (.picWide c p .input .w4 0) ∧
    decode (pioWord ⟨counter, v, pg, 1, 1, picPortNumber c p⟩) = .ok (.picWide c p .output .w2 v) ∧
    decode (pioWord ⟨counter, v, pg, 2, 1, picPortNumber c p⟩) = .ok (.picWide c p .output .w4 v)) ∧
  ∀ (c : Chip) (p : PicPort) (d : Dir) (w : Width) (v : Byte) (s : State),
    exec (.picWide c p d w v) s = .fault .picWideAccess

/-! ## PIC request lines (42_pic_lines.md) -/

/-- `raise(line)`: a masked raise is lost, a slave line also requests the cascade line, lines from 16 on are ignored
(R240). -/
def Obligations.RaiseEffect : Prop :=
  ∀ (line : BitVec 16) (s : State), exec (.picRaise line) s = .next
    { s with
      master := { s.master with
        irr :=
          if line.toNat < 8 ∧ s.master.imr.getLsbD line.toNat = false then s.master.irr ||| (1#8 <<< line.toNat)
          else if 8 ≤ line.toNat ∧ line.toNat < 16 ∧ s.slave.imr.getLsbD (line.toNat - 8) = false ∧
            s.master.imr.getLsbD 2 = false then s.master.irr ||| 0x04
          else s.master.irr }
      slave := { s.slave with
        irr :=
          if 8 ≤ line.toNat ∧ line.toNat < 16 ∧ s.slave.imr.getLsbD (line.toNat - 8) = false then
            s.slave.irr ||| (1#8 <<< (line.toNat - 8))
          else s.slave.irr }
      result := .done }

/-- `lower(line)`: reads no mask; a slave line also withdraws the cascade request; lines from 16 on are ignored (R241). -/
def Obligations.LowerEffect : Prop :=
  ∀ (line : BitVec 16) (s : State), exec (.picLower line) s = .next
    { s with
      master := { s.master with
        irr :=
          if line.toNat < 8 then s.master.irr &&& ~~~(1#8 <<< line.toNat)
          else if line.toNat < 16 then s.master.irr &&& 0xFB
          else s.master.irr }
      slave := { s.slave with
        irr :=
          if 8 ≤ line.toNat ∧ line.toNat < 16 then s.slave.irr &&& ~~~(1#8 <<< (line.toNat - 8)) else s.slave.irr }
      result := .done }

/-- `pending?` answers the formula of R244 over the candidates of R243 and changes no state. -/
def Obligations.PendingAnswer : Prop :=
  ∀ s : State, ∃ b : Bool, exec .picPending s = .next { s with result := .pending b } ∧
    (b = true ↔
      (∃ i ∈ [0, 1, 3, 4, 5, 6, 7],
        s.master.irr.getLsbD i = true ∧ s.master.imr.getLsbD i = false ∧ s.master.isr.getLsbD i = false) ∨
      ((s.master.irr.getLsbD 2 = true ∧ s.master.imr.getLsbD 2 = false ∧ s.master.isr.getLsbD 2 = false) ∧
        ∃ j < 8, s.slave.irr.getLsbD j = true ∧ s.slave.imr.getLsbD j = false ∧ s.slave.isr.getLsbD j = false))

/-- `acquire-vector`: the first master candidate but line 2; else, through the cascade line, the first slave candidate; else
"no vector" and no change (R246). -/
def Obligations.AcknowledgeProcedure : Prop :=
  ∀ s : State,
    (∀ i ∈ [0, 1, 3, 4, 5, 6, 7], s.master.Candidate i →
      (∀ k ∈ [0, 1, 3, 4, 5, 6, 7], k < i → ¬ s.master.Candidate k) →
      exec .picAck s = .next
        { s with
          master := { s.master with
            isr := if s.master.aeoi then s.master.isr else s.master.isr ||| (1#8 <<< i)
            irr := s.master.irr &&& ~~~(1#8 <<< i) }
          result := .vector (some (BitVec.ofNat 8 ((s.master.offset.toNat + i) % 256))) }) ∧
    (∀ j, (∀ i ∈ [0, 1, 3, 4, 5, 6, 7], ¬ s.master.Candidate i) → s.master.Candidate 2 → j < 8 → s.slave.Candidate j →
      (∀ k, k < j → ¬ s.slave.Candidate k) →
      exec .picAck s = .next
        { s with
          slave := { s.slave with
            isr := if s.slave.aeoi then s.slave.isr else s.slave.isr ||| (1#8 <<< j)
            irr := s.slave.irr &&& ~~~(1#8 <<< j) }
          master := { s.master with
            irr := if s.slave.irr &&& ~~~(1#8 <<< j) = 0 then s.master.irr &&& 0xFB else s.master.irr
            isr := if s.master.aeoi then s.master.isr else s.master.isr ||| 0x04 }
          result := .vector (some (BitVec.ofNat 8 ((s.slave.offset.toNat + j) % 256))) }) ∧
    ((∀ i ∈ [0, 1, 3, 4, 5, 6, 7], ¬ s.master.Candidate i) →
      (¬ s.master.Candidate 2 ∨ ∀ j, j < 8 → ¬ s.slave.Candidate j) →
      exec .picAck s = .next { s with result := .vector none })

/-- `pending?` is true exactly when `acquire-vector` in the same state returns a vector (R248, which the spec derives). -/
def Obligations.PendingIffVector : Prop :=
  ∀ s : State, ∃ (b : Bool) (answer : Option Byte) (t : State),
    exec .picPending s = .next { s with result := .pending b } ∧
    exec .picAck s = .next t ∧ t.result = .vector answer ∧ (b = true ↔ answer ≠ none)

/-- While master ISR[2] is set no slave vector is delivered: an acknowledgement leaves the slave alone (R246's notes,
60_exceptions.md R436). -/
def Obligations.SlaveBlockedInService : Prop :=
  ∀ s : State, s.master.isr.getLsbD 2 = true → ∃ t, exec .picAck s = .next t ∧ t.slave = s.slave

/-- Raising line 2 alone yields no vector: with no other candidate, the state after `raise(2)` answers `pending?` with false
and `acquire-vector` with none (R250, which the spec derives). -/
def Obligations.LoneCascadeRaise : Prop :=
  ∀ s : State, (∀ i ∈ [0, 1, 3, 4, 5, 6, 7], ¬ s.master.Candidate i) → (∀ j, j < 8 → ¬ s.slave.Candidate j) →
    ∃ t, exec (.picRaise 2) s = .next t ∧ exec .picPending t = .next { t with result := .pending false } ∧
      exec .picAck t = .next { t with result := .vector none }

/-- A raise repeated before its request is cleared coalesces with it: the second changes nothing (R242). -/
def Obligations.RepeatedRaiseCoalesces : Prop :=
  ∀ (line : BitVec 16) (s : State), ∃ t, exec (.picRaise line) s = .next t ∧ exec (.picRaise line) t = .next t

/-! ## NIC registers (43_ne2000_regs.md) -/

/-- Every register read, at its page and offset, puts the register in `D[0]` and changes nothing else. -/
def Obligations.NicRegisterReads : Prop :=
  (∀ (c : BitVec 2) (v : Byte),
    decode (pioWord ⟨c, v, 2, 0, 0, nicPortNumber 0x01⟩) = .ok .nicPstartR ∧
    decode (pioWord ⟨c, v, 2, 0, 0, nicPortNumber 0x02⟩) = .ok .nicPstopR ∧
    decode (pioWord ⟨c, v, 0, 0, 0, nicPortNumber 0x03⟩) = .ok .nicBnryR ∧
    decode (pioWord ⟨c, v, 2, 0, 0, nicPortNumber 0x04⟩) = .ok .nicTpsrR ∧
    decode (pioWord ⟨c, v, 2, 0, 0, nicPortNumber 0x0C⟩) = .ok .nicRcrR ∧
    decode (pioWord ⟨c, v, 2, 0, 0, nicPortNumber 0x0D⟩) = .ok .nicTcrR ∧
    decode (pioWord ⟨c, v, 2, 0, 0, nicPortNumber 0x0E⟩) = .ok .nicDcrR ∧
    decode (pioWord ⟨c, v, 0, 0, 0, nicPortNumber 0x07⟩) = .ok .nicIsrR ∧
    decode (pioWord ⟨c, v, 2, 0, 0, nicPortNumber 0x0F⟩) = .ok .nicImrR ∧
    decode (pioWord ⟨c, v, 1, 0, 0, nicPortNumber 0x07⟩) = .ok .nicCurrR ∧
    (∀ k, decode (pioWord ⟨c, v, 1, 0, 0, nicPortNumber (BitVec.ofNat 5 (0x01 + k.val))⟩) = .ok (.nicParR k)) ∧
    ∀ k, decode (pioWord ⟨c, v, 1, 0, 0, nicPortNumber (BitVec.ofNat 5 (0x08 + k.val))⟩) = .ok (.nicMarR k)) ∧
  ∀ s : State,
    exec .nicCrR s = .next { s with d := [s.nic.cr], result := .ok } ∧
    exec .nicPstartR s = .next { s with d := [s.nic.pstart], result := .ok } ∧
    exec .nicPstopR s = .next { s with d := [s.nic.pstop], result := .ok } ∧
    exec .nicBnryR s = .next { s with d := [s.nic.bnry], result := .ok } ∧
    exec .nicTpsrR s = .next { s with d := [s.nic.tpsr], result := .ok } ∧
    exec .nicRcrR s = .next { s with d := [s.nic.rcr], result := .ok } ∧
    exec .nicTcrR s = .next { s with d := [s.nic.tcr], result := .ok } ∧
    exec .nicDcrR s = .next { s with d := [s.nic.dcr], result := .ok } ∧
    exec .nicIsrR s = .next { s with d := [s.nic.isr], result := .ok } ∧
    exec .nicImrR s = .next { s with d := [s.nic.imr], result := .ok } ∧
    exec .nicCurrR s = .next { s with d := [s.nic.curr], result := .ok } ∧
    (∀ k, exec (.nicParR k) s = .next { s with d := [s.nic.par[k]], result := .ok }) ∧
    ∀ k, exec (.nicMarR k) s = .next { s with d := [s.nic.mar[k]], result := .ok }

/-- Writes of the ring, transmit and remote-DMA registers, at their page-0 offsets, store the byte and do nothing else, and
the write-only registers have no read slot on page 0 (R282, R284, R286, R288, R290 to R295). -/
def Obligations.NicRingAndDmaWrites : Prop :=
  (∀ (c : BitVec 2) (v : Byte),
    decode (pioWord ⟨c, v, 0, 0, 1, nicPortNumber 0x01⟩) = .ok (.nicPstartW v) ∧
    decode (pioWord ⟨c, v, 0, 0, 1, nicPortNumber 0x02⟩) = .ok (.nicPstopW v) ∧
    decode (pioWord ⟨c, v, 0, 0, 1, nicPortNumber 0x03⟩) = .ok (.nicBnryW v) ∧
    decode (pioWord ⟨c, v, 0, 0, 1, nicPortNumber 0x04⟩) = .ok (.nicTpsrW v) ∧
    decode (pioWord ⟨c, v, 0, 0, 1, nicPortNumber 0x05⟩) = .ok (.nicTbcr0W v) ∧
    decode (pioWord ⟨c, v, 0, 0, 1, nicPortNumber 0x06⟩) = .ok (.nicTbcr1W v) ∧
    decode (pioWord ⟨c, v, 0, 0, 1, nicPortNumber 0x08⟩) = .ok (.nicRsar0W v) ∧
    decode (pioWord ⟨c, v, 0, 0, 1, nicPortNumber 0x09⟩) = .ok (.nicRsar1W v) ∧
    decode (pioWord ⟨c, v, 0, 0, 1, nicPortNumber 0x0A⟩) = .ok (.nicRbcr0W v) ∧
    decode (pioWord ⟨c, v, 0, 0, 1, nicPortNumber 0x0B⟩) = .ok (.nicRbcr1W v)) ∧
  (∀ (v : Byte) (s : State),
    exec (.nicPstartW v) s = .next { s with nic := { s.nic with pstart := v }, result := .ok } ∧
    exec (.nicPstopW v) s = .next { s with nic := { s.nic with pstop := v }, result := .ok } ∧
    exec (.nicBnryW v) s = .next { s with nic := { s.nic with bnry := v }, result := .ok } ∧
    exec (.nicTpsrW v) s = .next { s with nic := { s.nic with tpsr := v }, result := .ok } ∧
    exec (.nicTbcr0W v) s = .next { s with nic := { s.nic with tbcr0 := v }, result := .ok } ∧
    exec (.nicTbcr1W v) s = .next { s with nic := { s.nic with tbcr1 := v }, result := .ok } ∧
    exec (.nicRsar0W v) s = .next { s with nic := { s.nic with rsar0 := v }, result := .ok } ∧
    exec (.nicRsar1W v) s = .next { s with nic := { s.nic with rsar1 := v }, result := .ok } ∧
    exec (.nicRbcr0W v) s = .next { s with nic := { s.nic with rbcr0 := v }, result := .ok } ∧
    exec (.nicRbcr1W v) s = .next { s with nic := { s.nic with rbcr1 := v }, result := .ok }) ∧
  ∀ (c : BitVec 2) (v : Byte), ∀ o ∈ ([0x05, 0x06, 0x08, 0x09, 0x0A, 0x0B] : List (BitVec 5)),
    decode (pioWord ⟨c, v, 0, 0, 0, nicPortNumber o⟩) = .ok (.nicInvalid o 0 .input .w1 0)

/-- Writes of RCR, TCR, DCR, PAR, CURR and MAR store the byte and do nothing else (sections 2 and 5). -/
def Obligations.NicStorageWrites : Prop :=
  ∀ (v : Byte) (s : State),
    exec (.nicRcrW v) s = .next { s with nic := { s.nic with rcr := v }, result := .ok } ∧
    exec (.nicTcrW v) s = .next { s with nic := { s.nic with tcr := v }, result := .ok } ∧
    exec (.nicDcrW v) s = .next { s with nic := { s.nic with dcr := v }, result := .ok } ∧
    exec (.nicCurrW v) s = .next { s with nic := { s.nic with curr := v }, result := .ok } ∧
    (∀ k, exec (.nicParW k v) s = .next { s with nic := { s.nic with par := s.nic.par.set k v }, result := .ok }) ∧
    ∀ k, exec (.nicMarW k v) s = .next { s with nic := { s.nic with mar := s.nic.mar.set k v }, result := .ok }

/-- At page 0, offsets 0x07 and 0x0F: an ISR write clears the bits written as 1 and lowers the line when no unmasked cause
remains (R301); an IMR write stores the byte and raises or lowers the line as ISR & IMR says (R302). -/
def Obligations.StatusAndMaskWrites : Prop :=
  (∀ (c : BitVec 2) (v : Byte),
    decode (pioWord ⟨c, v, 0, 0, 1, nicPortNumber 0x07⟩) = .ok (.nicIsrW v) ∧
    decode (pioWord ⟨c, v, 0, 0, 1, nicPortNumber 0x0F⟩) = .ok (.nicImrW v)) ∧
  ∀ (v : Byte) (s : State),
    exec (.nicIsrW v) s = .next
      (if s.nic.isr &&& ~~~v &&& s.nic.imr = 0 then
        picLower s.params.nicIrqLine { s with nic := { s.nic with isr := s.nic.isr &&& ~~~v }, result := .ok }
      else { s with nic := { s.nic with isr := s.nic.isr &&& ~~~v }, result := .ok }) ∧
    exec (.nicImrW v) s = .next
      (if s.nic.isr &&& v = 0 then
        picLower s.params.nicIrqLine { s with nic := { s.nic with imr := v }, result := .ok }
      else picRaise s.params.nicIrqLine { s with nic := { s.nic with imr := v }, result := .ok })

/-- After an ISR or IMR write that leaves no unmasked cause, the PIC holds no request of the NIC's line (R318, which the
spec derives). -/
def Obligations.LineLowWhenIdle : Prop :=
  ∀ (v : Byte) (s t : State), exec (.nicIsrW v) s = .next t ∨ exec (.nicImrW v) s = .next t →
    t.nic.isr &&& t.nic.imr = 0 →
    (s.params.nicIrqLine < 8 → t.master.irr.getLsbD s.params.nicIrqLine = false) ∧
    (8 ≤ s.params.nicIrqLine → s.params.nicIrqLine < 16 →
      t.slave.irr.getLsbD (s.params.nicIrqLine - 8) = false ∧ t.master.irr.getLsbD 2 = false)

/-- An invalid slot and a width the slot does not take: an IN leaves as many open bytes in D as the access is wide, an OUT
changes no register and no RAM, and the error's bits go into ISR with a raise if unmasked (R304, R305). An IN from the reset
port leaves open bytes too and reports nothing (R311). -/
def Obligations.OpenByteAccesses : Prop :=
  (∀ (o : BitVec 5) (pg : BitVec 2) (w : Width) (v : Byte) (s : State),
    (∃ b : List Byte, b.length = widthBytes w ∧
      exec (.nicInvalid o pg .input w v) s = .next
        (raiseIf (s.params.errIsr .invalidRegister)
          { s with
            nic := { s.nic with isr := s.nic.isr ||| s.params.errIsr .invalidRegister }
            d := b, draws := s.draws + widthBytes w, result := .ok })) ∧
    exec (.nicInvalid o pg .output w v) s = .next
      (raiseIf (s.params.errIsr .invalidRegister)
        { s with nic := { s.nic with isr := s.nic.isr ||| s.params.errIsr .invalidRegister }, result := .ok }) ∧
    (∃ b : List Byte, b.length = widthBytes w ∧
      ∀ i, (i = .nicBadwidth o .input w v ∨ (i = .nicDataIn w ∧ (w = .w4 ∨ (w = .w2 ∧ s.nic.dcr.getLsbD 0 = false)))) →
      exec i s = .next
        (raiseIf (s.params.errIsr .badWidth)
          { s with
            nic := { s.nic with isr := s.nic.isr ||| s.params.errIsr .badWidth }
            d := b, draws := s.draws + widthBytes w, result := .ok })) ∧
    ∀ i, (i = .nicBadwidth o .output w v ∨ (i = .nicDataOut w v ∧ (w = .w4 ∨ (w = .w2 ∧ s.nic.dcr.getLsbD 0 = false)))) →
      exec i s = .next
        (raiseIf (s.params.errIsr .badWidth)
          { s with nic := { s.nic with isr := s.nic.isr ||| s.params.errIsr .badWidth }, result := .ok })) ∧
  ∀ (w : Width) (s : State), ∃ b : List Byte, b.length = widthBytes w ∧
    exec (.nicResetR w) s = .next { s with d := b, draws := s.draws + widthBytes w, result := .ok }

/-! ## NIC command register and transmit (44_ne2000_cr_dma_tx.md) -/

/-- A CR write with STP: PS and RD as written, TXP and STA 0, RST set with a raise if unmasked, the progress counter
cleared, and no remote-DMA command and no transmit (R340 steps 1, 2, 4 and 5). -/
def Obligations.StopCommand : Prop :=
  ∀ (v : Byte) (s : State), v.getLsbD 0 = true →
    exec (.nicCrW v) s = .next
      (raiseIf 0x80
        { s with
          nic := { s.nic with cr := v &&& 0xF8 ||| 0x01, isr := s.nic.isr ||| 0x80, dmaProgress := 0 }
          result := .ok })

/-- A CR write with neither STP nor STA: CR is stored with TXP 0, and of the NIC beside it the remote-DMA command alone acts
(R340 steps 1, 2, 4, R341). -/
def Obligations.CommandWithoutStart : Prop :=
  ∀ (v : Byte) (s : State), v.getLsbD 0 = false → v.getLsbD 1 = false →
    exec (.nicCrW v) s = .next
      { s with
        nic := { s.nic with
          cr := v &&& 0xF8
          dmaArmed :=
            if v.extractLsb' 3 3 = 0b100 then false else if v.extractLsb' 3 3 = 0b000 then s.nic.dmaArmed else true
          dmaProgress := if v.extractLsb' 3 3 = 0b100 then 0 else s.nic.dmaProgress }
        result := .ok }

/-- A START without TXP: RST cleared, the line lowered when no unmasked cause remains, and the remote-DMA command (R340
steps 1, 3 and 5, R341). -/
def Obligations.StartCommand : Prop :=
  ∀ (v : Byte) (s : State), v.getLsbD 0 = false → v.getLsbD 1 = true → v.getLsbD 2 = false →
    ∃ u : State,
      u = { s with
        nic := { s.nic with
          cr := v &&& 0xF8 ||| 0x02
          isr := s.nic.isr &&& 0x7F
          dmaArmed :=
            if v.extractLsb' 3 3 = 0b100 then false else if v.extractLsb' 3 3 = 0b000 then s.nic.dmaArmed else true
          dmaProgress := if v.extractLsb' 3 3 = 0b100 then 0 else s.nic.dmaProgress }
        result := .ok } ∧
      exec (.nicCrW v) s = .next
        (if s.nic.isr &&& 0x7F &&& s.nic.imr = 0 then picLower s.params.nicIrqLine u else u)

/-- A START with TXP whose frame passes the length and bounds checks hands exactly that frame to the host, once, and then
sets PTX or TXE as the host answers, with a raise if unmasked; the START's own lower comes before it (R340 steps 3 and 4,
R350, R351). -/
def Obligations.TransmitSends : Prop :=
  ∀ (v : Byte) (s : State), v.getLsbD 0 = false → v.getLsbD 1 = true → v.getLsbD 2 = true →
    60 ≤ s.nic.tbcr1.toNat * 256 + s.nic.tbcr0.toNat → s.nic.tbcr1.toNat * 256 + s.nic.tbcr0.toNat ≤ 1514 →
    s.nic.tpsr.toNat * 256 + (s.nic.tbcr1.toNat * 256 + s.nic.tbcr0.toNat) ≤ 65536 →
    ∃ (frame : List Byte) (done : Byte) (u : State),
      frame.length = s.nic.tbcr1.toNat * 256 + s.nic.tbcr0.toNat ∧
      (∀ k, k < frame.length → frame[k]? = some (s.nic.ramByte (s.nic.tpsr.toNat * 256 + k))) ∧
      done = (if s.answers.hostWriteOk then 0x02 else 0x08) ∧
      u = { s with
        nic := { s.nic with
          cr := v &&& 0xF8 ||| 0x02
          isr := s.nic.isr &&& 0x7F ||| done
          dmaArmed :=
            if v.extractLsb' 3 3 = 0b100 then false else if v.extractLsb' 3 3 = 0b000 then s.nic.dmaArmed else true
          dmaProgress := if v.extractLsb' 3 3 = 0b100 then 0 else s.nic.dmaProgress }
        hostWrites := s.hostWrites ++ [⟨frame, s.answers.hostWriteOk⟩]
        result := .ok } ∧
      exec (.nicCrW v) s = .next
        (raiseIf done (if s.nic.isr &&& 0x7F &&& s.nic.imr = 0 then picLower s.params.nicIrqLine u else u))

/-- A START with TXP whose frame fails the length or the bounds check makes no host call and sets TXE (R350, R351). -/
def Obligations.TransmitFails : Prop :=
  ∀ (v : Byte) (s : State), v.getLsbD 0 = false → v.getLsbD 1 = true → v.getLsbD 2 = true →
    (s.nic.tbcr1.toNat * 256 + s.nic.tbcr0.toNat < 60 ∨ 1514 < s.nic.tbcr1.toNat * 256 + s.nic.tbcr0.toNat ∨
      65536 < s.nic.tpsr.toNat * 256 + (s.nic.tbcr1.toNat * 256 + s.nic.tbcr0.toNat)) →
    ∃ u : State,
      u = { s with
        nic := { s.nic with
          cr := v &&& 0xF8 ||| 0x02
          isr := s.nic.isr &&& 0x7F ||| 0x08
          dmaArmed :=
            if v.extractLsb' 3 3 = 0b100 then false else if v.extractLsb' 3 3 = 0b000 then s.nic.dmaArmed else true
          dmaProgress := if v.extractLsb' 3 3 = 0b100 then 0 else s.nic.dmaProgress }
        result := .ok } ∧
      exec (.nicCrW v) s = .next
        (raiseIf 0x08 (if s.nic.isr &&& 0x7F &&& s.nic.imr = 0 then picLower s.params.nicIrqLine u else u))

/-! ## NIC data port (44_ne2000_cr_dma_tx.md) -/

/-- An accepted IN at the data port inside RAM: the bytes at `dmaAddr + dmaProgress` in buffer order, the progress advanced
by the width, and at the count RDC with a raise if unmasked and the progress back at 0, the port still armed (R342, R343,
R346). -/
def Obligations.DataPortRead : Prop :=
  ∀ (w : Width) (s : State) (a : Nat), (w = .w1 ∨ (w = .w2 ∧ s.nic.dcr.getLsbD 0 = true)) → s.nic.dmaArmed = true →
    a = s.nic.rsar1.toNat * 256 + s.nic.rsar0.toNat + s.nic.dmaProgress → a + widthBytes w ≤ 65536 →
    exec (.nicDataIn w) s = .next
      (if s.nic.rbcr1.toNat * 256 + s.nic.rbcr0.toNat ≤ s.nic.dmaProgress + widthBytes w then
        raiseIf 0x40
          { s with
            nic := { s.nic with isr := s.nic.isr ||| 0x40, dmaProgress := 0 }
            d := (List.range (widthBytes w)).map fun k => s.nic.ramByte (a + k)
            result := .ok }
      else
        { s with
          nic := { s.nic with dmaProgress := s.nic.dmaProgress + widthBytes w }
          d := (List.range (widthBytes w)).map fun k => s.nic.ramByte (a + k)
          result := .ok })

/-- An accepted OUT at the data port inside RAM: D goes to `dmaAddr + dmaProgress` in buffer order, every other byte of RAM
is as before, and the counter and RDC follow as for an IN (R342, R343, R347). -/
def Obligations.DataPortWrite : Prop :=
  ∀ (w : Width) (v : Byte) (s : State) (a : Nat), (w = .w1 ∨ (w = .w2 ∧ s.nic.dcr.getLsbD 0 = true)) →
    s.nic.dmaArmed = true → a = s.nic.rsar1.toNat * 256 + s.nic.rsar0.toNat + s.nic.dmaProgress →
    a + widthBytes w ≤ 65536 →
    ∃ t, exec (.nicDataOut w v) s = .next t ∧
      t.nic.ramByte a = v ∧
      (∀ k, 0 < k → k < widthBytes w → t.nic.ramByte (a + k) = s.d.getD k 0) ∧
      (∀ x, (x < a ∨ a + widthBytes w ≤ x) → t.nic.ramByte x = s.nic.ramByte x) ∧
      t = (if s.nic.rbcr1.toNat * 256 + s.nic.rbcr0.toNat ≤ s.nic.dmaProgress + widthBytes w then
          raiseIf 0x40
            { s with
              nic := { s.nic with isr := s.nic.isr ||| 0x40, dmaProgress := 0, ram := t.nic.ram }
              result := .ok }
        else
          { s with
            nic := { s.nic with dmaProgress := s.nic.dmaProgress + widthBytes w, ram := t.nic.ram }
            result := .ok })

/-- An armed access with a byte outside RAM: an IN reads 0xFF bytes, an OUT writes none, the error's bits go into ISR with a
raise if unmasked, the progress returns to 0 and the port is disarmed (R345). -/
def Obligations.DataPortBoundsFailure : Prop :=
  ∀ (w : Width) (v : Byte) (s : State), (w = .w1 ∨ (w = .w2 ∧ s.nic.dcr.getLsbD 0 = true)) → s.nic.dmaArmed = true →
    65536 < s.nic.rsar1.toNat * 256 + s.nic.rsar0.toNat + s.nic.dmaProgress + widthBytes w →
    exec (.nicDataIn w) s = .next
      (raiseIf (s.params.errIsr .dmaBounds)
        { s with
          nic := { s.nic with
            isr := s.nic.isr ||| s.params.errIsr .dmaBounds, dmaProgress := 0, dmaArmed := false }
          d := List.replicate (widthBytes w) 0xFF
          result := .ok }) ∧
    exec (.nicDataOut w v) s = .next
      (raiseIf (s.params.errIsr .dmaBounds)
        { s with
          nic := { s.nic with
            isr := s.nic.isr ||| s.params.errIsr .dmaBounds, dmaProgress := 0, dmaArmed := false }
          result := .ok })

/-- An accepted access while the port is not armed faults; the port is unarmed after power-on, a NIC reset, an abort and a
failure, and stays so before a remote-DMA command (R344). -/
def Obligations.DataPortNotArmed : Prop :=
  (∀ (w : Width) (v : Byte) (s : State), (w = .w1 ∨ (w = .w2 ∧ s.nic.dcr.getLsbD 0 = true)) → s.nic.dmaArmed = false →
    exec (.nicDataIn w) s = .fault .dataPortNotArmed ∧ exec (.nicDataOut w v) s = .fault .dataPortNotArmed) ∧
  State.reset.nic.dmaArmed = false ∧
  (∀ (w : Width) (v : Byte) (s t : State), exec (.nicResetW w v) s = .next t → t.nic.dmaArmed = false) ∧
  (∀ (v : Byte) (s t : State), v.getLsbD 0 = false → v.extractLsb' 3 3 = 0b100 → exec (.nicCrW v) s = .next t →
    t.nic.dmaArmed = false) ∧
  (∀ (w : Width) (v : Byte) (s t : State), (w = .w1 ∨ (w = .w2 ∧ s.nic.dcr.getLsbD 0 = true)) →
    65536 < s.nic.rsar1.toNat * 256 + s.nic.rsar0.toNat + s.nic.dmaProgress + widthBytes w →
    exec (.nicDataIn w) s = .next t ∨ exec (.nicDataOut w v) s = .next t → t.nic.dmaArmed = false) ∧
  ∀ (i : Instr) (s t : State), exec i s = .next t → s.nic.dmaArmed = false → t.nic.dmaArmed = true →
    ∃ v, i = .nicCrW v ∧ v.getLsbD 0 = false ∧ v.extractLsb' 3 3 ≠ 0b000 ∧ v.extractLsb' 3 3 ≠ 0b100

/-! ## NIC ingress task and ring (45_ne2000_rx.md) -/

/-- NIC.RX_POLL: no change while a packet is held or the NIC is stopped; else the host's answer decides (R390, R391). -/
def Obligations.RxPollAnswers : Prop :=
  ∀ s : State,
    (s.nic.rxHeld ≠ none ∨ ¬ (s.nic.cr.getLsbD 1 = true ∧ s.nic.cr.getLsbD 0 = false) →
      exec .nicRxPoll s = .next { s with result := .done }) ∧
    (s.nic.rxHeld = none → s.nic.cr.getLsbD 1 = true → s.nic.cr.getLsbD 0 = false →
      exec .nicRxPoll s = .next
        (match s.answers.hostRead with
        | .noPacket => { s with result := .done }
        | .error =>
          raiseIf (s.params.errIsr .hostRead)
            { s with nic := { s.nic with isr := s.nic.isr ||| s.params.errIsr .hostRead }, result := .done }
        | .packet bytes => { s with nic := { s.nic with rxHeld := some bytes }, result := .done }))

/-- Where NIC.RX_DELIVER stores nothing: no packet held; a held packet that the recheck drops silently (R393); a packet
longer than 1514 bytes, which sets RXE (R395). -/
def Obligations.RxDeliverWithoutStore : Prop :=
  (∀ s : State, s.nic.rxHeld = none → exec .nicRxDeliver s = .next { s with result := .done }) ∧
  (∀ (s : State) (packet : List Byte), s.nic.rxHeld = some packet → s.answers.rxRecheck = true →
    ¬ (s.nic.cr.getLsbD 1 = true ∧ s.nic.cr.getLsbD 0 = false) →
    exec .nicRxDeliver s = .next { s with nic := { s.nic with rxHeld := none }, result := .done }) ∧
  ∀ (s : State) (packet : List Byte), s.nic.rxHeld = some packet →
    (s.answers.rxRecheck = false ∨ (s.nic.cr.getLsbD 1 = true ∧ s.nic.cr.getLsbD 0 = false)) → 1514 < packet.length →
    exec .nicRxDeliver s = .next
      (raiseIf 0x04
        { s with nic := { s.nic with rxHeld := none, isr := s.nic.isr ||| 0x04 }, result := .done })

/-- A delivery outside the ring configuration faults (R394). -/
def Obligations.RingConfigFault : Prop :=
  ∀ (s : State) (packet : List Byte), s.nic.rxHeld = some packet →
    (s.answers.rxRecheck = false ∨ (s.nic.cr.getLsbD 1 = true ∧ s.nic.cr.getLsbD 0 = false)) → packet.length ≤ 1514 →
    ¬ (s.nic.pstart.toNat < s.nic.pstop.toNat ∧ s.nic.pstart.toNat ≤ s.nic.curr.toNat ∧
      s.nic.curr.toNat < s.nic.pstop.toNat ∧
      (packet.length + 4 + 255) / 256 < s.nic.pstop.toNat - s.nic.pstart.toNat) →
    exec .nicRxDeliver s = .fault .ringConfig

/-- A delivery whose next page would equal BNRY drops the packet, sets OVW with a raise if unmasked, and leaves CURR and RAM
unchanged: the drop of R396. That every other next page is stored at, BNRY passed over or not, is `PacketStored`. -/
def Obligations.RingOverflow : Prop :=
  ∀ (s : State) (packet : List Byte) (pages next : Nat), s.nic.rxHeld = some packet →
    (s.answers.rxRecheck = false ∨ (s.nic.cr.getLsbD 1 = true ∧ s.nic.cr.getLsbD 0 = false)) → packet.length ≤ 1514 →
    pages = (packet.length + 4 + 255) / 256 →
    s.nic.pstart.toNat < s.nic.pstop.toNat → s.nic.pstart.toNat ≤ s.nic.curr.toNat →
    s.nic.curr.toNat < s.nic.pstop.toNat → pages < s.nic.pstop.toNat - s.nic.pstart.toNat →
    next = (if s.nic.pstop.toNat ≤ s.nic.curr.toNat + pages then
      s.nic.curr.toNat + pages - (s.nic.pstop.toNat - s.nic.pstart.toNat) else s.nic.curr.toNat + pages) →
    next = s.nic.bnry.toNat →
    exec .nicRxDeliver s = .next
      (raiseIf 0x10
        { s with nic := { s.nic with rxHeld := none, isr := s.nic.isr ||| 0x10 }, result := .done })

/-- A delivery that stores: the header at CURR, every byte of the packet at its place in the ring, every other byte of RAM as
before, CURR at the next page, PRX set with a raise if unmasked, and nothing else (R397). -/
def Obligations.PacketStored : Prop :=
  ∀ (s : State) (packet : List Byte) (pages next base : Nat), s.nic.rxHeld = some packet →
    (s.answers.rxRecheck = false ∨ (s.nic.cr.getLsbD 1 = true ∧ s.nic.cr.getLsbD 0 = false)) → packet.length ≤ 1514 →
    pages = (packet.length + 4 + 255) / 256 →
    s.nic.pstart.toNat < s.nic.pstop.toNat → s.nic.pstart.toNat ≤ s.nic.curr.toNat →
    s.nic.curr.toNat < s.nic.pstop.toNat → pages < s.nic.pstop.toNat - s.nic.pstart.toNat →
    next = (if s.nic.pstop.toNat ≤ s.nic.curr.toNat + pages then
      s.nic.curr.toNat + pages - (s.nic.pstop.toNat - s.nic.pstart.toNat) else s.nic.curr.toNat + pages) →
    next ≠ s.nic.bnry.toNat → base = s.nic.curr.toNat * 256 →
    ∃ t, exec .nicRxDeliver s = .next t ∧
      t.nic.ramByte base = 0x01 ∧ (t.nic.ramByte (base + 1)).toNat = next ∧
      (t.nic.ramByte (base + 2)).toNat = (packet.length + 4) % 256 ∧
      (t.nic.ramByte (base + 3)).toNat = (packet.length + 4) / 256 ∧
      (∀ k, k < packet.length → some (t.nic.ramByte (s.nic.ringAddr k)) = packet[k]?) ∧
      (∀ x, (x < base ∨ base + 4 ≤ x) → (∀ k, k < packet.length → x ≠ s.nic.ringAddr k) →
        t.nic.ramByte x = s.nic.ramByte x) ∧
      (∀ k, s.nic.ringAddr k =
        if s.nic.pstop.toNat * 256 ≤ base + 4 + k then
          base + 4 + k - (s.nic.pstop.toNat - s.nic.pstart.toNat) * 256
        else base + 4 + k) ∧
      t.nic.curr.toNat = next ∧
      t = raiseIf 0x01
        { s with
          nic := { s.nic with
            ram := t.nic.ram, curr := t.nic.curr, rxHeld := none, isr := s.nic.isr ||| 0x01 }
          result := .done }

/-- A packet whose tail crosses PSTOP wraps to PSTART: its first byte past the end is at `PSTART * 256`, and every later byte
follows in order (R399, which the spec derives). -/
def Obligations.RingWrap : Prop :=
  ∀ (s t : State) (packet : List Byte) (first : Nat), s.nic.rxHeld = some packet →
    exec .nicRxDeliver s = .next t → t.nic.curr ≠ s.nic.curr →
    s.nic.pstop.toNat * 256 < s.nic.curr.toNat * 256 + 4 + packet.length →
    first = s.nic.pstop.toNat * 256 - s.nic.curr.toNat * 256 - 4 →
    ∀ k, first + k < packet.length → some (t.nic.ramByte (s.nic.pstart.toNat * 256 + k)) = packet[first + k]?

/-- A delivery keeps CURR inside the ring (R396: one subtraction brings the next page into the ring). -/
def Obligations.DeliveryKeepsCurrInRing : Prop :=
  ∀ s t : State, exec .nicRxDeliver s = .next t → s.nic.pstart.toNat ≤ s.nic.curr.toNat →
    s.nic.curr.toNat < s.nic.pstop.toNat →
    t.nic.pstart = s.nic.pstart ∧ t.nic.pstop = s.nic.pstop ∧ t.nic.pstart.toNat ≤ t.nic.curr.toNat ∧
      t.nic.curr.toNat < t.nic.pstop.toNat

/-- Delivery does not read PAR, MAR or RCR: with any other values of them it ends alike, in the state that differs in them
alone (R398, which the spec derives). -/
def Obligations.DeliveryIgnoresFilters : Prop :=
  ∀ (s : State) (par : Vector Byte 6) (mar : Vector Byte 8) (rcr : Byte),
    (∀ t, exec .nicRxDeliver s = .next t →
      exec .nicRxDeliver { s with nic := { s.nic with par := par, mar := mar, rcr := rcr } } =
        .next { t with nic := { t.nic with par := par, mar := mar, rcr := rcr } }) ∧
    ∀ f, exec .nicRxDeliver s = .fault f →
      exec .nicRxDeliver { s with nic := { s.nic with par := par, mar := mar, rcr := rcr } } = .fault f

/-! ## BUS (40_iobus.md) -/

/-- The BUS table is the port map, and no step changes it (10_state.md R38). -/
def Obligations.BusTable : Prop :=
  (∀ port : Port, busDevice State.reset.bus port =
    if 0x20 ≤ port.toNat ∧ port.toNat ≤ 0x21 then some .picMaster
    else if 0xA0 ≤ port.toNat ∧ port.toNat ≤ 0xA1 then some .picSlave
    else if (0x40 ≤ port.toNat ∧ port.toNat ≤ 0x43) ∨ port.toNat = 0x61 then some .pit
    else if port.toNat = 0x60 ∨ port.toNat = 0x64 then some .keyboard
    else if 0x70 ≤ port.toNat ∧ port.toNat ≤ 0x71 then some .rtc
    else if 0x300 ≤ port.toNat ∧ port.toNat ≤ 0x31F then some .nic
    else if 0x3F8 ≤ port.toNat ∧ port.toNat ≤ 0x3FF then some .com1
    else none) ∧
  ∀ (i : Instr) (s t : State), exec i s = .next t → s.bus = State.reset.bus → t.bus = s.bus

/-- An access to a port with no device returns `Error(UnhandledPort)` and changes no block state; one to an external device
returns the environment's answer and changes none either. An IN leaves open bytes in D, an OUT ignores D (R181 to R183). -/
def Obligations.AccessesOutsideTheBlock : Prop :=
  ∀ (port : Port) (w : Width) (v : Byte) (s : State),
    (∃ b : List Byte, b.length = widthBytes w ∧
      exec (.busUnmapped port .input w v) s = .next
        { s with d := b, draws := s.draws + widthBytes w, result := .error .unhandledPort }) ∧
    exec (.busUnmapped port .output w v) s = .next { s with result := .error .unhandledPort } ∧
    (∃ b : List Byte, b.length = widthBytes w ∧
      exec (.busExt port .input w v) s = .next
        { s with
          d := b, draws := s.draws + widthBytes w
          result := if s.answers.extOk then .ok else .error .externalDevice }) ∧
    exec (.busExt port .output w v) s = .next
      { s with result := if s.answers.extOk then .ok else .error .externalDevice }

/-! ## The whole machine -/

/-- Only ICW1 to the chip, an EOI and power-on clear an in-service bit, and only an acknowledgement sets one
(10_state.md R34, 60_exceptions.md R433). -/
def Obligations.InServiceChanges : Prop :=
  ∀ (i : Instr) (s t : State) (c : Chip) (k : Nat), exec i s = .next t →
    ((s.chip c).isr.getLsbD k = true → (t.chip c).isr.getLsbD k = false →
      (∃ v, i = .picIcw1 c v) ∨ (∃ v, i = .picOcw2EoiSpec c v ∨ i = .picOcw2Eoi c v) ∨
      (∃ v, i = .picOcw2EoiSpec .master v ∨ i = .picOcw2Eoi .master v) ∨ i = .sysPowerOn) ∧
    ((s.chip c).isr.getLsbD k = false → (t.chip c).isr.getLsbD k = true → i = .picAck)

/-- A chip's mask, vector offset and read selector change by their own writes alone (10_state.md R31, R35, R37). -/
def Obligations.PicSetupChanges : Prop :=
  ∀ (i : Instr) (s t : State) (c : Chip), exec i s = .next t → i ≠ .sysPowerOn →
    ((t.chip c).imr ≠ (s.chip c).imr → ∃ v, i = .picImrW c v ∨ i = .picIcw1 c v) ∧
    ((t.chip c).offset ≠ (s.chip c).offset → ∃ v, i = .picIcw2 c v) ∧
    ((t.chip c).readSel ≠ (s.chip c).readSel → ∃ v, i = .picOcw3 c v)

/-- Each part owns its state: no PIC step touches the NIC, a NIC step reaches the PIC's request registers alone, a BUS access
changes no block state, and no step changes the parameters (00_scope.md R11, R15, 40_iobus.md R181, R183). -/
def Obligations.PartsKeepApart : Prop :=
  ∀ (i : Instr) (s t : State), exec i s = .next t →
    t.params = s.params ∧
    (partOf i = .pic → t.nic = s.nic ∧ t.bus = s.bus ∧ t.hostWrites = s.hostWrites) ∧
    (partOf i = .nic → s.master.SameButIrr t.master ∧ s.slave.SameButIrr t.slave ∧ t.bus = s.bus) ∧
    (partOf i = .bus → SameBlock s t ∧ t.hostWrites = s.hostWrites)

/-- A NIC ISR bit is cleared only by a write of 1 to it, by a START clearing RST, by a NIC reset and by power-on
(10_state.md R52). -/
def Obligations.NicStatusBitsFall : Prop :=
  ∀ (i : Instr) (s t : State) (k : Nat), exec i s = .next t → s.nic.isr.getLsbD k = true →
    t.nic.isr.getLsbD k = false →
    (∃ v, i = .nicIsrW v ∧ v.getLsbD k = true) ∨
    (∃ v, i = .nicCrW v ∧ v.getLsbD 1 = true ∧ v.getLsbD 0 = false ∧ k = 7) ∨
    (∃ w v, i = .nicResetW w v) ∨ i = .sysPowerOn

/-- NIC RAM changes only where the rules write it: the data port's own bytes, the ring of a delivery, the twelve bytes of a
reset, and power-on (20_memory.md R101, 70_reset_and_hazards.md R474). -/
def Obligations.RamChanges : Prop :=
  ∀ (i : Instr) (s t : State) (x : Nat), exec i s = .next t → t.nic.ramByte x ≠ s.nic.ramByte x →
    (∃ w v, i = .nicDataOut w v ∧ s.nic.dmaPos ≤ x ∧ x < s.nic.dmaPos + widthBytes w) ∨
    (i = .nicRxDeliver ∧ pageAddr s.nic.pstart ≤ x ∧ x < pageAddr s.nic.pstop) ∨
    (∃ w v, i = .nicResetW w v ∧ x < 12) ∨ i = .sysPowerOn

/-- Nothing else stops: an instruction faults only as the three reasons of 00_scope.md R6 say, and none is refused
(60_exceptions.md R421). -/
def Obligations.FaultsOnlyWhereSaid : Prop :=
  ∀ (i : Instr) (s : State),
    (∀ why, exec i s ≠ .refused why) ∧
    ∀ f, exec i s = .fault f →
      (f = .picWideAccess ∧ ∃ c p d w v, i = .picWide c p d w v) ∨
      (f = .dataPortNotArmed ∧ s.nic.dmaArmed = false ∧ ((∃ w, i = .nicDataIn w) ∨ ∃ w v, i = .nicDataOut w v)) ∨
      (f = .ringConfig ∧ i = .nicRxDeliver ∧ s.nic.rxHeld ≠ none)

/-- The invariant of Safety.lean holds right after power-on. -/
def Obligations.InvariantAtReset : Prop := State.reset.Inv

/-- Every step keeps the invariant of Safety.lean, from every state that has it. -/
def Obligations.InvariantKept : Prop := ∀ s t : State, s.Inv → step s = .next t → t.Inv
end

