-- ==== Sys2Proof/Laws/State.lean ====
section
/-!
SUPPORT. One lemma for each field of each update of the state and of a PIC chip, so that no later proof unfolds an update.
-/

namespace Sys2Proof.Machine

/-! ## Chips -/

@[simp] theorem State.chip_master (s : State) : s.chip .master = s.master := rfl
@[simp] theorem State.chip_slave (s : State) : s.chip .slave = s.slave := rfl
@[simp] theorem State.withChip_master (s : State) (p : PicChip) : s.withChip .master p = { s with master := p } := rfl
@[simp] theorem State.withChip_slave (s : State) (p : PicChip) : s.withChip .slave p = { s with slave := p } := rfl
@[simp] theorem State.chip_withChip (s : State) (c : Chip) (p : PicChip) : (s.withChip c p).chip c = p := by cases c <;> rfl

@[simp] theorem State.withChip_params (s : State) (c : Chip) (p : PicChip) : (s.withChip c p).params = s.params := by cases c <;> rfl
@[simp] theorem State.withChip_bus (s : State) (c : Chip) (p : PicChip) : (s.withChip c p).bus = s.bus := by cases c <;> rfl
@[simp] theorem State.withChip_nic (s : State) (c : Chip) (p : PicChip) : (s.withChip c p).nic = s.nic := by cases c <;> rfl
@[simp] theorem State.withChip_d (s : State) (c : Chip) (p : PicChip) : (s.withChip c p).d = s.d := by cases c <;> rfl
@[simp] theorem State.withChip_result (s : State) (c : Chip) (p : PicChip) : (s.withChip c p).result = s.result := by cases c <;> rfl
@[simp] theorem State.withChip_answers (s : State) (c : Chip) (p : PicChip) : (s.withChip c p).answers = s.answers := by cases c <;> rfl
@[simp] theorem State.withChip_hostWrites (s : State) (c : Chip) (p : PicChip) : (s.withChip c p).hostWrites = s.hostWrites := by cases c <;> rfl
@[simp] theorem State.withChip_draws (s : State) (c : Chip) (p : PicChip) : (s.withChip c p).draws = s.draws := by cases c <;> rfl
@[simp] theorem State.withChip_agenda (s : State) (c : Chip) (p : PicChip) : (s.withChip c p).agenda = s.agenda := by cases c <;> rfl

/-! ## Results and draws -/

@[simp] theorem State.returning_params (s : State) (r : StepResult) : (s.returning r).params = s.params := rfl
@[simp] theorem State.returning_bus (s : State) (r : StepResult) : (s.returning r).bus = s.bus := rfl
@[simp] theorem State.returning_master (s : State) (r : StepResult) : (s.returning r).master = s.master := rfl
@[simp] theorem State.returning_slave (s : State) (r : StepResult) : (s.returning r).slave = s.slave := rfl
@[simp] theorem State.returning_nic (s : State) (r : StepResult) : (s.returning r).nic = s.nic := rfl
@[simp] theorem State.returning_d (s : State) (r : StepResult) : (s.returning r).d = s.d := rfl
@[simp] theorem State.returning_result (s : State) (r : StepResult) : (s.returning r).result = r := rfl
@[simp] theorem State.returning_answers (s : State) (r : StepResult) : (s.returning r).answers = s.answers := rfl
@[simp] theorem State.returning_hostWrites (s : State) (r : StepResult) : (s.returning r).hostWrites = s.hostWrites := rfl
@[simp] theorem State.returning_draws (s : State) (r : StepResult) : (s.returning r).draws = s.draws := rfl
@[simp] theorem State.returning_agenda (s : State) (r : StepResult) : (s.returning r).agenda = s.agenda := rfl

@[simp] theorem State.reply_params (s : State) (b : List Byte) : (s.reply b).params = s.params := rfl
@[simp] theorem State.reply_bus (s : State) (b : List Byte) : (s.reply b).bus = s.bus := rfl
@[simp] theorem State.reply_master (s : State) (b : List Byte) : (s.reply b).master = s.master := rfl
@[simp] theorem State.reply_slave (s : State) (b : List Byte) : (s.reply b).slave = s.slave := rfl
@[simp] theorem State.reply_nic (s : State) (b : List Byte) : (s.reply b).nic = s.nic := rfl
@[simp] theorem State.reply_d (s : State) (b : List Byte) : (s.reply b).d = b := rfl
@[simp] theorem State.reply_result (s : State) (b : List Byte) : (s.reply b).result = .ok := rfl
@[simp] theorem State.reply_answers (s : State) (b : List Byte) : (s.reply b).answers = s.answers := rfl
@[simp] theorem State.reply_hostWrites (s : State) (b : List Byte) : (s.reply b).hostWrites = s.hostWrites := rfl
@[simp] theorem State.reply_draws (s : State) (b : List Byte) : (s.reply b).draws = s.draws := rfl
@[simp] theorem State.reply_agenda (s : State) (b : List Byte) : (s.reply b).agenda = s.agenda := rfl

@[simp] theorem State.useDraws_params (s : State) (n : Nat) : (s.useDraws n).params = s.params := rfl
@[simp] theorem State.useDraws_bus (s : State) (n : Nat) : (s.useDraws n).bus = s.bus := rfl
@[simp] theorem State.useDraws_master (s : State) (n : Nat) : (s.useDraws n).master = s.master := rfl
@[simp] theorem State.useDraws_slave (s : State) (n : Nat) : (s.useDraws n).slave = s.slave := rfl
@[simp] theorem State.useDraws_nic (s : State) (n : Nat) : (s.useDraws n).nic = s.nic := rfl
@[simp] theorem State.useDraws_d (s : State) (n : Nat) : (s.useDraws n).d = s.d := rfl
@[simp] theorem State.useDraws_result (s : State) (n : Nat) : (s.useDraws n).result = s.result := rfl
@[simp] theorem State.useDraws_answers (s : State) (n : Nat) : (s.useDraws n).answers = s.answers := rfl
@[simp] theorem State.useDraws_hostWrites (s : State) (n : Nat) : (s.useDraws n).hostWrites = s.hostWrites := rfl
@[simp] theorem State.useDraws_draws (s : State) (n : Nat) : (s.useDraws n).draws = s.draws + n := rfl
@[simp] theorem State.useDraws_agenda (s : State) (n : Nat) : (s.useDraws n).agenda = s.agenda := rfl

@[simp] theorem State.drawReply_params (s : State) (d : Dir) (w : Width) (r : StepResult) : (s.drawReply d w r).params = s.params := by cases d <;> rfl
@[simp] theorem State.drawReply_bus (s : State) (d : Dir) (w : Width) (r : StepResult) : (s.drawReply d w r).bus = s.bus := by cases d <;> rfl
@[simp] theorem State.drawReply_master (s : State) (d : Dir) (w : Width) (r : StepResult) : (s.drawReply d w r).master = s.master := by cases d <;> rfl
@[simp] theorem State.drawReply_slave (s : State) (d : Dir) (w : Width) (r : StepResult) : (s.drawReply d w r).slave = s.slave := by cases d <;> rfl
@[simp] theorem State.drawReply_nic (s : State) (d : Dir) (w : Width) (r : StepResult) : (s.drawReply d w r).nic = s.nic := by cases d <;> rfl
@[simp] theorem State.drawReply_result (s : State) (d : Dir) (w : Width) (r : StepResult) : (s.drawReply d w r).result = r := by cases d <;> rfl
@[simp] theorem State.drawReply_answers (s : State) (d : Dir) (w : Width) (r : StepResult) : (s.drawReply d w r).answers = s.answers := by cases d <;> rfl
@[simp] theorem State.drawReply_hostWrites (s : State) (d : Dir) (w : Width) (r : StepResult) : (s.drawReply d w r).hostWrites = s.hostWrites := by cases d <;> rfl
@[simp] theorem State.drawReply_agenda (s : State) (d : Dir) (w : Width) (r : StepResult) : (s.drawReply d w r).agenda = s.agenda := by cases d <;> rfl

@[simp] theorem State.drawReply_input_d (s : State) (w : Width) (r : StepResult) :
    (s.drawReply .input w r).d = s.drawnBytes (widthBytes w) := rfl
@[simp] theorem State.drawReply_output (s : State) (w : Width) (r : StepResult) : s.drawReply .output w r = s.returning r := rfl

/-! ## Moves -/

@[simp] theorem State.beginMove_params (s : State) (m : Move) (rest : List Move) : (s.beginMove m rest).params = s.params := rfl
@[simp] theorem State.beginMove_bus (s : State) (m : Move) (rest : List Move) : (s.beginMove m rest).bus = s.bus := rfl
@[simp] theorem State.beginMove_master (s : State) (m : Move) (rest : List Move) : (s.beginMove m rest).master = s.master := rfl
@[simp] theorem State.beginMove_slave (s : State) (m : Move) (rest : List Move) : (s.beginMove m rest).slave = s.slave := rfl
@[simp] theorem State.beginMove_nic (s : State) (m : Move) (rest : List Move) : (s.beginMove m rest).nic = s.nic := rfl
@[simp] theorem State.beginMove_d (s : State) (m : Move) (rest : List Move) : (s.beginMove m rest).d = moveBuffer m := rfl
@[simp] theorem State.beginMove_result (s : State) (m : Move) (rest : List Move) : (s.beginMove m rest).result = .done := rfl
@[simp] theorem State.beginMove_answers (s : State) (m : Move) (rest : List Move) : (s.beginMove m rest).answers = m.answers := rfl
@[simp] theorem State.beginMove_hostWrites (s : State) (m : Move) (rest : List Move) : (s.beginMove m rest).hostWrites = s.hostWrites := rfl
@[simp] theorem State.beginMove_draws (s : State) (m : Move) (rest : List Move) : (s.beginMove m rest).draws = s.draws + 1 := rfl
@[simp] theorem State.beginMove_agenda (s : State) (m : Move) (rest : List Move) : (s.beginMove m rest).agenda = rest := rfl

@[simp] theorem State.withMove_params (s : State) (x : Descriptor) : (s.withMove x).params = s.params := rfl
@[simp] theorem State.withMove_bus (s : State) (x : Descriptor) : (s.withMove x).bus = s.bus := rfl
@[simp] theorem State.withMove_master (s : State) (x : Descriptor) : (s.withMove x).master = s.master := rfl
@[simp] theorem State.withMove_slave (s : State) (x : Descriptor) : (s.withMove x).slave = s.slave := rfl
@[simp] theorem State.withMove_nic (s : State) (x : Descriptor) : (s.withMove x).nic = s.nic := rfl
@[simp] theorem State.withMove_d (s : State) (x : Descriptor) : (s.withMove x).d = s.d := rfl
@[simp] theorem State.withMove_result (s : State) (x : Descriptor) : (s.withMove x).result = s.result := rfl
@[simp] theorem State.withMove_answers (s : State) (x : Descriptor) : (s.withMove x).answers = s.answers := rfl
@[simp] theorem State.withMove_hostWrites (s : State) (x : Descriptor) : (s.withMove x).hostWrites = s.hostWrites := rfl
@[simp] theorem State.withMove_draws (s : State) (x : Descriptor) : (s.withMove x).draws = s.draws := rfl
@[simp] theorem State.withMove_agenda (s : State) (x : Descriptor) : (s.withMove x).agenda = ⟨x, ⟨(pioFields x).v, 0, 0, 0⟩, freeAnswers s.draws⟩ :: s.agenda := rfl

/-! ## NIC register writes -/

@[simp] theorem nicStore_nic (n : Nic) (s : State) : (nicStore n s).nic = n := rfl
@[simp] theorem nicStore_result (n : Nic) (s : State) : (nicStore n s).result = .ok := rfl
@[simp] theorem nicStore_params (n : Nic) (s : State) : (nicStore n s).params = s.params := rfl
@[simp] theorem nicStore_bus (n : Nic) (s : State) : (nicStore n s).bus = s.bus := rfl
@[simp] theorem nicStore_master (n : Nic) (s : State) : (nicStore n s).master = s.master := rfl
@[simp] theorem nicStore_slave (n : Nic) (s : State) : (nicStore n s).slave = s.slave := rfl
@[simp] theorem nicStore_d (n : Nic) (s : State) : (nicStore n s).d = s.d := rfl
@[simp] theorem nicStore_answers (n : Nic) (s : State) : (nicStore n s).answers = s.answers := rfl
@[simp] theorem nicStore_hostWrites (n : Nic) (s : State) : (nicStore n s).hostWrites = s.hostWrites := rfl
@[simp] theorem nicStore_draws (n : Nic) (s : State) : (nicStore n s).draws = s.draws := rfl
@[simp] theorem nicStore_agenda (n : Nic) (s : State) : (nicStore n s).agenda = s.agenda := rfl

/-! ## PIC chips -/

@[simp] theorem PicChip.request_counter (p : PicChip) (i : Nat) : (p.request i).counter = p.counter := rfl
@[simp] theorem PicChip.request_single (p : PicChip) (i : Nat) : (p.request i).single = p.single := rfl
@[simp] theorem PicChip.request_needIcw4 (p : PicChip) (i : Nat) : (p.request i).needIcw4 = p.needIcw4 := rfl
@[simp] theorem PicChip.request_level (p : PicChip) (i : Nat) : (p.request i).level = p.level := rfl
@[simp] theorem PicChip.request_aeoi (p : PicChip) (i : Nat) : (p.request i).aeoi = p.aeoi := rfl
@[simp] theorem PicChip.request_sfnm (p : PicChip) (i : Nat) : (p.request i).sfnm = p.sfnm := rfl
@[simp] theorem PicChip.request_imr (p : PicChip) (i : Nat) : (p.request i).imr = p.imr := rfl
@[simp] theorem PicChip.request_irr (p : PicChip) (i : Nat) : (p.request i).irr = p.irr ||| bit i := rfl
@[simp] theorem PicChip.request_isr (p : PicChip) (i : Nat) : (p.request i).isr = p.isr := rfl
@[simp] theorem PicChip.request_offset (p : PicChip) (i : Nat) : (p.request i).offset = p.offset := rfl
@[simp] theorem PicChip.request_readSel (p : PicChip) (i : Nat) : (p.request i).readSel = p.readSel := rfl

@[simp] theorem PicChip.withdraw_counter (p : PicChip) (i : Nat) : (p.withdraw i).counter = p.counter := rfl
@[simp] theorem PicChip.withdraw_single (p : PicChip) (i : Nat) : (p.withdraw i).single = p.single := rfl
@[simp] theorem PicChip.withdraw_needIcw4 (p : PicChip) (i : Nat) : (p.withdraw i).needIcw4 = p.needIcw4 := rfl
@[simp] theorem PicChip.withdraw_level (p : PicChip) (i : Nat) : (p.withdraw i).level = p.level := rfl
@[simp] theorem PicChip.withdraw_aeoi (p : PicChip) (i : Nat) : (p.withdraw i).aeoi = p.aeoi := rfl
@[simp] theorem PicChip.withdraw_sfnm (p : PicChip) (i : Nat) : (p.withdraw i).sfnm = p.sfnm := rfl
@[simp] theorem PicChip.withdraw_imr (p : PicChip) (i : Nat) : (p.withdraw i).imr = p.imr := rfl
@[simp] theorem PicChip.withdraw_irr (p : PicChip) (i : Nat) : (p.withdraw i).irr = p.irr &&& ~~~(bit i) := rfl
@[simp] theorem PicChip.withdraw_isr (p : PicChip) (i : Nat) : (p.withdraw i).isr = p.isr := rfl
@[simp] theorem PicChip.withdraw_offset (p : PicChip) (i : Nat) : (p.withdraw i).offset = p.offset := rfl
@[simp] theorem PicChip.withdraw_readSel (p : PicChip) (i : Nat) : (p.withdraw i).readSel = p.readSel := rfl

@[simp] theorem PicChip.endService_counter (p : PicChip) (i : Nat) : (p.endService i).counter = p.counter := rfl
@[simp] theorem PicChip.endService_single (p : PicChip) (i : Nat) : (p.endService i).single = p.single := rfl
@[simp] theorem PicChip.endService_needIcw4 (p : PicChip) (i : Nat) : (p.endService i).needIcw4 = p.needIcw4 := rfl
@[simp] theorem PicChip.endService_level (p : PicChip) (i : Nat) : (p.endService i).level = p.level := rfl
@[simp] theorem PicChip.endService_aeoi (p : PicChip) (i : Nat) : (p.endService i).aeoi = p.aeoi := rfl
@[simp] theorem PicChip.endService_sfnm (p : PicChip) (i : Nat) : (p.endService i).sfnm = p.sfnm := rfl
@[simp] theorem PicChip.endService_imr (p : PicChip) (i : Nat) : (p.endService i).imr = p.imr := rfl
@[simp] theorem PicChip.endService_irr (p : PicChip) (i : Nat) : (p.endService i).irr = p.irr := rfl
@[simp] theorem PicChip.endService_isr (p : PicChip) (i : Nat) : (p.endService i).isr = p.isr &&& ~~~(bit i) := rfl
@[simp] theorem PicChip.endService_offset (p : PicChip) (i : Nat) : (p.endService i).offset = p.offset := rfl
@[simp] theorem PicChip.endService_readSel (p : PicChip) (i : Nat) : (p.endService i).readSel = p.readSel := rfl

@[simp] theorem PicChip.serve_counter (p : PicChip) (i : Nat) : (p.serve i).counter = p.counter := by
  unfold PicChip.serve; split <;> rfl
@[simp] theorem PicChip.serve_single (p : PicChip) (i : Nat) : (p.serve i).single = p.single := by
  unfold PicChip.serve; split <;> rfl
@[simp] theorem PicChip.serve_needIcw4 (p : PicChip) (i : Nat) : (p.serve i).needIcw4 = p.needIcw4 := by
  unfold PicChip.serve; split <;> rfl
@[simp] theorem PicChip.serve_level (p : PicChip) (i : Nat) : (p.serve i).level = p.level := by
  unfold PicChip.serve; split <;> rfl
@[simp] theorem PicChip.serve_aeoi (p : PicChip) (i : Nat) : (p.serve i).aeoi = p.aeoi := by
  unfold PicChip.serve; split <;> rfl
@[simp] theorem PicChip.serve_sfnm (p : PicChip) (i : Nat) : (p.serve i).sfnm = p.sfnm := by
  unfold PicChip.serve; split <;> rfl
@[simp] theorem PicChip.serve_imr (p : PicChip) (i : Nat) : (p.serve i).imr = p.imr := by
  unfold PicChip.serve; split <;> rfl
@[simp] theorem PicChip.serve_irr (p : PicChip) (i : Nat) : (p.serve i).irr = p.irr := by
  unfold PicChip.serve; split <;> rfl
@[simp] theorem PicChip.serve_offset (p : PicChip) (i : Nat) : (p.serve i).offset = p.offset := by
  unfold PicChip.serve; split <;> rfl
@[simp] theorem PicChip.serve_readSel (p : PicChip) (i : Nat) : (p.serve i).readSel = p.readSel := by
  unfold PicChip.serve; split <;> rfl

@[simp] theorem PicChip.serve_isr (p : PicChip) (i : Nat) :
    (p.serve i).isr = if p.aeoi then p.isr else p.isr ||| bit i := by
  unfold PicChip.serve; split <;> rfl

@[simp] theorem PicChip.icw1_counter (p : PicChip) (v : Byte) : (p.icw1 v).counter = 1 := rfl
@[simp] theorem PicChip.icw1_single (p : PicChip) (v : Byte) : (p.icw1 v).single = v.getLsbD 1 := rfl
@[simp] theorem PicChip.icw1_needIcw4 (p : PicChip) (v : Byte) : (p.icw1 v).needIcw4 = v.getLsbD 0 := rfl
@[simp] theorem PicChip.icw1_level (p : PicChip) (v : Byte) : (p.icw1 v).level = v.getLsbD 3 := rfl
@[simp] theorem PicChip.icw1_aeoi (p : PicChip) (v : Byte) : (p.icw1 v).aeoi = false := rfl
@[simp] theorem PicChip.icw1_sfnm (p : PicChip) (v : Byte) : (p.icw1 v).sfnm = false := rfl
@[simp] theorem PicChip.icw1_imr (p : PicChip) (v : Byte) : (p.icw1 v).imr = 0x00 := rfl
@[simp] theorem PicChip.icw1_irr (p : PicChip) (v : Byte) : (p.icw1 v).irr = 0x00 := rfl
@[simp] theorem PicChip.icw1_isr (p : PicChip) (v : Byte) : (p.icw1 v).isr = 0x00 := rfl
@[simp] theorem PicChip.icw1_offset (p : PicChip) (v : Byte) : (p.icw1 v).offset = p.offset := rfl
@[simp] theorem PicChip.icw1_readSel (p : PicChip) (v : Byte) : (p.icw1 v).readSel = p.readSel := rfl

@[simp] theorem PicChip.ocw3_counter (p : PicChip) (v : Byte) : (p.ocw3 v).counter = p.counter := by
  unfold PicChip.ocw3; split <;> rfl
@[simp] theorem PicChip.ocw3_single (p : PicChip) (v : Byte) : (p.ocw3 v).single = p.single := by
  unfold PicChip.ocw3; split <;> rfl
@[simp] theorem PicChip.ocw3_needIcw4 (p : PicChip) (v : Byte) : (p.ocw3 v).needIcw4 = p.needIcw4 := by
  unfold PicChip.ocw3; split <;> rfl
@[simp] theorem PicChip.ocw3_level (p : PicChip) (v : Byte) : (p.ocw3 v).level = p.level := by
  unfold PicChip.ocw3; split <;> rfl
@[simp] theorem PicChip.ocw3_aeoi (p : PicChip) (v : Byte) : (p.ocw3 v).aeoi = p.aeoi := by
  unfold PicChip.ocw3; split <;> rfl
@[simp] theorem PicChip.ocw3_sfnm (p : PicChip) (v : Byte) : (p.ocw3 v).sfnm = p.sfnm := by
  unfold PicChip.ocw3; split <;> rfl
@[simp] theorem PicChip.ocw3_imr (p : PicChip) (v : Byte) : (p.ocw3 v).imr = p.imr := by
  unfold PicChip.ocw3; split <;> rfl
@[simp] theorem PicChip.ocw3_irr (p : PicChip) (v : Byte) : (p.ocw3 v).irr = p.irr := by
  unfold PicChip.ocw3; split <;> rfl
@[simp] theorem PicChip.ocw3_isr (p : PicChip) (v : Byte) : (p.ocw3 v).isr = p.isr := by
  unfold PicChip.ocw3; split <;> rfl
@[simp] theorem PicChip.ocw3_offset (p : PicChip) (v : Byte) : (p.ocw3 v).offset = p.offset := by
  unfold PicChip.ocw3; split <;> rfl

@[simp] theorem PicChip.ocw3_readSel (p : PicChip) (v : Byte) :
    (p.ocw3 v).readSel = if v.getLsbD 1 then (if v.getLsbD 0 then .isr else .irr) else p.readSel := by
  unfold PicChip.ocw3; split <;> rfl

end Sys2Proof.Machine
end

