-- ==== Sys2Proof/Laws/Encoding.lean ====
section
/-!
SUPPORT. The layouts of a descriptor read back (30_encoding.md R142, R144): the fields of a PIO word are the fields it was
made of, and the decoder reads a PIO word and an event word by their fields.
-/

namespace Sys2Proof

open Sys2Proof.Machine

/-- The fields of a PIO word (R142). -/
@[simp] theorem pioFields_pioWord (f : PioFields) : pioFields (pioWord f) = f := by
  obtain ⟨c, v, pg, w, d, port⟩ := f
  simp only [pioFields, pioWord, PioFields.mk.injEq]
  refine ⟨?_, ?_, ?_, ?_, ?_, ?_⟩ <;>
  · apply BitVec.eq_of_getLsbD_eq
    intro i hi
    rw [BitVec.getLsbD_extractLsb']
    simp only [BitVec.getLsbD_append, hi, decide_true, Bool.true_and]
    repeat' split
    all_goals first | omega | (congr 1; omega)

/-- A PIO word has format bit 0 (R140). -/
theorem pioWord_format (f : PioFields) : (pioWord f).getLsbD 31 = false := by
  simp only [pioWord, BitVec.getLsbD_append]
  rfl

/-- A PIO descriptor is the word of its fields (R142). -/
theorem pioWord_pioFields {x : Descriptor} (h : x.getLsbD 31 = false) : pioWord (pioFields x) = x := by
  apply BitVec.eq_of_getLsbD_eq
  intro i hi
  by_cases e : i = 31
  · subst e
    rw [h, pioWord_format]
  · simp only [pioFields, pioWord, BitVec.getLsbD_append, BitVec.getLsbD_extractLsb']
    repeat' split
    all_goals first
      | omega
      | (rw [decide_eq_true (by omega)]; simp only [Bool.true_and]; congr 1; omega)

/-- An event word has format bit 1 (R140). -/
theorem evtWord_format (code : BitVec 4) (arg : BitVec 16) : (evtWord code arg).getLsbD 31 = true := by
  simp only [evtWord, BitVec.getLsbD_append]
  rfl

/-- The fields of an event word (R144). -/
theorem evtWord_fields (code : BitVec 4) (arg : BitVec 16) :
    (evtWord code arg).extractLsb' 24 7 = 0 ∧ (evtWord code arg).extractLsb' 16 4 = 0 ∧
      (evtWord code arg).extractLsb' 20 4 = code ∧ (evtWord code arg).extractLsb' 0 16 = arg := by
  refine ⟨?_, ?_, ?_, ?_⟩ <;>
  · apply BitVec.eq_of_getLsbD_eq
    intro i hi
    rw [BitVec.getLsbD_extractLsb']
    simp only [evtWord, BitVec.getLsbD_append, hi, decide_true, Bool.true_and]
    repeat' split
    all_goals first | omega | (congr 1; omega)

/-- The decoder reads a PIO word by its fields. -/
theorem decodeWith_pioWord (bus : List BusRange) (f : PioFields) : decodeWith bus (pioWord f) = decodePio bus f := by
  unfold decodeWith
  rw [pioWord_format, pioFields_pioWord]
  simp

/-- The decoder reads an event word by its code and argument. -/
theorem decodeWith_evtWord (bus : List BusRange) (code : BitVec 4) (arg : BitVec 16) :
    decodeWith bus (evtWord code arg) = decodeEvent code arg := by
  obtain ⟨h1, h2, h3, h4⟩ := evtWord_fields code arg
  unfold decodeWith decodeEvt
  rw [evtWord_format, h1, h2, h3, h4]
  simp

end Sys2Proof
end

