-- ==== Sys2Proof/Laws/Memory.lean ====
section
/-!
SUPPORT. The laws of NIC RAM: reading after storing, and the canonical form that every memory operation keeps.
-/

namespace Sys2Proof.Machine

/-! ## One byte -/

@[simp] theorem Memory.read?_nil (x : Nat) : Memory.read? [] x = none := rfl

@[simp] theorem Memory.read?_cons (a : Nat) (b : Byte) (m : Memory) (x : Nat) :
    Memory.read? ((a, b) :: m) x = if x = a then some b else Memory.read? m x := rfl

/-- Reading the address just stored to gives the byte stored. -/
@[simp] theorem Memory.read?_write_same (m : Memory) (x : Nat) (v : Byte) : (m.write x v).read? x = some v := by
  induction m with
  | nil => simp [Memory.write]
  | cons c m ih =>
    obtain ⟨a, b⟩ := c
    unfold Memory.write
    split
    · simp
    · split
      · simp_all
      · simp_all

/-- A store leaves every other address alone. -/
theorem Memory.read?_write_ne (m : Memory) {x y : Nat} (v : Byte) (h : y ≠ x) : (m.write x v).read? y = m.read? y := by
  induction m with
  | nil => simp [Memory.write, h]
  | cons c m ih =>
    obtain ⟨a, b⟩ := c
    unfold Memory.write
    split
    · simp [h]
    · split
      · rename_i h2; subst h2; simp [h]
      · simp [ih]

/-- What one store does to every read. -/
theorem Memory.read?_write (m : Memory) (x y : Nat) (v : Byte) :
    (m.write x v).read? y = if y = x then some v else m.read? y := by
  split
  · next h => subst h; simp
  · next h => exact m.read?_write_ne v h

/-- The addresses of a memory after a store. -/
theorem Memory.mem_write {m : Memory} {x : Nat} {v : Byte} {c : Host.Cell} (h : c ∈ m.write x v) :
    c = (x, v) ∨ c ∈ m := by
  induction m with
  | nil => simpa [Memory.write] using h
  | cons d m ih =>
    obtain ⟨a, b⟩ := d
    unfold Memory.write at h
    split at h
    · simpa using h
    · split at h
      · next h2 => subst h2; simp at h; rcases h with h | h <;> simp [h]
      · simp only [List.mem_cons] at h ⊢
        rcases h with h | h
        · simp [h]
        · rcases ih h with h | h <;> simp [h]

/-- A store inside RAM keeps the canonical form. -/
theorem Memory.wf_write {m : Memory} (hm : m.wf) {x : Nat} (hx : x < 65536) (v : Byte) : (m.write x v).wf := by
  refine ⟨?_, fun c hc => ?_⟩
  · obtain ⟨hp, -⟩ := hm
    induction m with
    | nil => simp [Memory.write]
    | cons d m ih =>
      obtain ⟨a, b⟩ := d
      obtain ⟨h1, h2⟩ := List.pairwise_cons.mp hp
      unfold Memory.write
      split
      · next hlt =>
        refine List.pairwise_cons.mpr ⟨fun c hc => ?_, hp⟩
        rcases List.mem_cons.mp hc with rfl | hc
        · exact hlt
        · exact Nat.lt_trans hlt (h1 c hc)
      · next hlt =>
        split
        · exact List.pairwise_cons.mpr ⟨h1, h2⟩
        · next hne =>
          refine List.pairwise_cons.mpr ⟨fun c hc => ?_, ih h2⟩
          rcases Memory.mem_write hc with rfl | hc
          · simp only; omega
          · exact h1 c hc
  · rcases Memory.mem_write hc with rfl | hc
    · exact hx
    · exact hm.2 c hc

/-- An address below every entry holds none. -/
theorem Memory.read?_eq_none {m : Memory} {x : Nat} (h : ∀ c ∈ m, x < c.1) : m.read? x = none := by
  induction m with
  | nil => rfl
  | cons d m ih =>
    obtain ⟨a, b⟩ := d
    have ha : x < a := h (a, b) (by simp)
    rw [Memory.read?_cons, if_neg (by omega)]
    exact ih fun c hc => h c (by simp [hc])

/-- In canonical form, equal memories are equal data. -/
theorem Memory.ext_of_read? {m n : Memory} (hm : m.wf) (hn : n.wf) (h : ∀ x, m.read? x = n.read? x) : m = n := by
  obtain ⟨hm, -⟩ := hm
  obtain ⟨hn, -⟩ := hn
  induction m generalizing n with
  | nil =>
    cases n with
    | nil => rfl
    | cons d n => obtain ⟨a, b⟩ := d; have := h a; simp at this
  | cons c m ih =>
    obtain ⟨a, b⟩ := c
    obtain ⟨hc, hm⟩ := List.pairwise_cons.mp hm
    cases n with
    | nil => have := h a; simp at this
    | cons d n =>
      obtain ⟨a', b'⟩ := d
      obtain ⟨hd, hn2⟩ := List.pairwise_cons.mp hn
      have key : a = a' := by
        rcases Nat.lt_trichotomy a a' with hlt | heq | hgt
        · have h1 := h a
          rw [Memory.read?_cons, if_pos rfl, Memory.read?_cons, if_neg (by omega),
            Memory.read?_eq_none fun c hc => Nat.lt_trans hlt (hd c hc)] at h1
          exact absurd h1 (by simp)
        · exact heq
        · have h1 := h a'
          rw [Memory.read?_cons, if_neg (by omega), Memory.read?_cons, if_pos rfl,
            Memory.read?_eq_none fun c h2 => Nat.lt_trans hgt (hc c h2)] at h1
          exact absurd h1 (by simp)
      subst key
      have hb : b = b' := by simpa using h a
      subst hb
      refine congrArg _ (ih (fun x => ?_) hm hn2)
      by_cases hx : x = a
      · subst hx
        rw [Memory.read?_eq_none fun c h2 => hc c h2, Memory.read?_eq_none fun c h2 => hd c h2]
      · simpa [hx] using h x

/-! ## Runs of bytes -/

/-- Stores to other addresses leave a byte alone. -/
theorem Memory.read?_writeCells_notin (cells : List Host.Cell) (m : Memory) {x : Nat} (h : ∀ c ∈ cells, c.1 ≠ x) :
    (m.writeCells cells).read? x = m.read? x := by
  induction cells generalizing m with
  | nil => rfl
  | cons c cells ih =>
    obtain ⟨a, b⟩ := c
    have ha : x ≠ a := fun e => h (a, b) (by simp) e.symm
    rw [Memory.writeCells, ih _ fun c hc => h c (by simp [hc]), Memory.read?_write_ne _ _ ha]

/-- Stores inside RAM keep the canonical form. -/
theorem Memory.wf_writeCells {cells : List Host.Cell} {m : Memory} (hm : m.wf) (h : ∀ c ∈ cells, c.1 < 65536) :
    (m.writeCells cells).wf := by
  induction cells generalizing m with
  | nil => exact hm
  | cons c cells ih =>
    obtain ⟨a, b⟩ := c
    exact ih (Memory.wf_write hm (h (a, b) (by simp)) b) fun c hc => h c (by simp [hc])

/-- The stores of a run lie in it. -/
theorem runCells_range {a : Nat} {bytes : List Byte} {c : Host.Cell} (h : c ∈ runCells a bytes) :
    a ≤ c.1 ∧ c.1 < a + bytes.length := by
  induction bytes generalizing a with
  | nil => simp [runCells] at h
  | cons b rest ih =>
    rcases List.mem_cons.mp h with rfl | h
    · simp
    · have := ih h
      simp only [List.length_cons]
      omega

/-- A run of stores inside RAM keeps the canonical form. -/
theorem Memory.wf_writeRun {m : Memory} (hm : m.wf) {a : Nat} {bytes : List Byte} (h : a + bytes.length ≤ 65536) :
    (m.writeRun a bytes).wf :=
  Memory.wf_writeCells hm fun c hc => by have := runCells_range hc; omega

/-- A run of stores: the byte of the run inside it, the old byte outside. -/
theorem Memory.read?_writeRun (m : Memory) (a : Nat) (bytes : List Byte) (x : Nat) :
    (m.writeRun a bytes).read? x =
      if a ≤ x ∧ x < a + bytes.length then some (bytes.getD (x - a) 0) else m.read? x := by
  unfold Memory.writeRun
  induction bytes generalizing a m with
  | nil =>
    rw [if_neg (by simp only [List.length_nil]; omega)]
    rfl
  | cons b rest ih =>
    simp only [runCells, Memory.writeCells, List.length_cons]
    rw [ih]
    by_cases h1 : a + 1 ≤ x ∧ x < a + 1 + rest.length
    · rw [if_pos h1, if_pos (by omega)]
      obtain ⟨k, rfl⟩ : ∃ k, x = a + 1 + k := ⟨x - (a + 1), by omega⟩
      have e1 : a + 1 + k - (a + 1) = k := by omega
      have e2 : a + 1 + k - a = k + 1 := by omega
      rw [e1, e2]
      simp
    · rw [if_neg h1, Memory.read?_write]
      by_cases h2 : x = a
      · subst h2
        rw [if_pos rfl, if_pos (by omega)]
        simp
      · rw [if_neg h2, if_neg (by omega)]

/-! ## Bytes of the NIC's RAM -/

/-- RAM after a run of stores, byte by byte. -/
theorem Nic.ramByte_writeRun (n : Nic) (a : Nat) (bytes : List Byte) (x : Nat) :
    ({ n with ram := n.ram.writeRun a bytes } : Nic).ramByte x =
      if a ≤ x ∧ x < a + bytes.length then bytes.getD (x - a) 0 else n.ramByte x := by
  unfold Nic.ramByte
  rw [Memory.read?_writeRun]
  split <;> simp

/-- `ramByte` reads RAM and the epoch alone. -/
theorem Nic.ramByte_congr {m n : Nic} (hr : m.ram = n.ram) (he : m.ramEpoch = n.ramEpoch) (x : Nat) :
    m.ramByte x = n.ramByte x := by
  unfold Nic.ramByte
  rw [hr, he]

@[simp] theorem Nic.memRead_length (n : Nic) (a k : Nat) : (n.memRead a k).length = k := by simp [Nic.memRead]

theorem Nic.memRead_getD (n : Nic) (a k i : Nat) (h : i < k) : (n.memRead a k).getD i 0 = n.ramByte (a + i) := by
  simp [Nic.memRead, h]

/-! ## The receive ring -/

/-- The stores of a packet's bytes stand in its order. -/
theorem Nic.ringCells_eq (n : Nic) (k : Nat) (bytes : List Byte) :
    n.ringCells k bytes = bytes.mapIdx fun i b => (n.ringAddr (k + i), b) := by
  induction bytes generalizing k with
  | nil => rfl
  | cons b rest ih =>
    simp only [Nic.ringCells, List.mapIdx_cons, ih]
    congr 2
    funext i c
    congr 2
    omega

/-- Each store of a packet is that of one of its bytes. -/
theorem Nic.ringCells_range {n : Nic} {k : Nat} {bytes : List Byte} {c : Host.Cell} (h : c ∈ n.ringCells k bytes) :
    ∃ i, i < bytes.length ∧ c.1 = n.ringAddr (k + i) := by
  induction bytes generalizing k with
  | nil => simp [Nic.ringCells] at h
  | cons b rest ih =>
    rcases List.mem_cons.mp h with rfl | h
    · exact ⟨0, by simp, rfl⟩
    · obtain ⟨i, hi, he⟩ := ih h
      refine ⟨i + 1, by simpa using hi, ?_⟩
      rw [he]
      congr 1
      omega

/-- The place of a packet's byte depends on PSTART, PSTOP and CURR alone. -/
theorem Nic.ringAddr_congr {m n : Nic} (hs : m.pstart = n.pstart) (he : m.pstop = n.pstop) (hc : m.curr = n.curr)
    (k : Nat) : m.ringAddr k = n.ringAddr k := by
  unfold Nic.ringAddr
  rw [hs, he, hc]

/-- The stores of a packet depend on PSTART, PSTOP and CURR alone (45_ne2000_rx.md R398). -/
theorem Nic.ringCells_congr {m n : Nic} (hs : m.pstart = n.pstart) (he : m.pstop = n.pstop) (hc : m.curr = n.curr)
    (k : Nat) (packet : List Byte) : m.ringCells k packet = n.ringCells k packet := by
  induction packet generalizing k with
  | nil => rfl
  | cons b rest ih => simp only [Nic.ringCells, Nic.ringAddr_congr hs he hc, ih]

/-- RAM after a delivery depends on RAM, PSTART, PSTOP and CURR alone (45_ne2000_rx.md R398). -/
theorem Nic.ringStore_congr {m n : Nic} (hr : m.ram = n.ram) (hs : m.pstart = n.pstart) (he : m.pstop = n.pstop)
    (hc : m.curr = n.curr) (packet : List Byte) : m.ringStore packet = n.ringStore packet := by
  unfold Nic.ringStore Nic.ringNext
  rw [Nic.ringCells_congr hs he hc, hr, hs, he, hc]

/-- Where the checks of R394 hold, every data byte of a packet lies inside the ring (45_ne2000_rx.md R397). -/
theorem Nic.ringAddr_range {n : Nic} {len k : Nat} (h : n.ringOk (ringPages len) = true) (hk : k < len) :
    pageAddr n.pstart ≤ n.ringAddr k ∧ n.ringAddr k < pageAddr n.pstop := by
  simp only [Nic.ringOk, Bool.and_eq_true, decide_eq_true_eq] at h
  have hp : len + 4 ≤ ringPages len * 256 := by unfold ringPages; omega
  obtain ⟨⟨⟨h1, h2⟩, h3⟩, h4⟩ := h
  unfold Nic.ringAddr pageAddr
  generalize ringPages len = pages at hp h4
  generalize n.pstop.toNat = e at *
  generalize n.pstart.toNat = b at *
  generalize n.curr.toNat = c at *
  rw [Nat.sub_mul]
  split <;> omega

/-- RAM right after power-on is in canonical form. -/
theorem reset_ram_wf : Nic.reset.ram.wf := by
  refine ⟨?_, ?_⟩
  · simp [Nic.reset]
  · simp [Nic.reset]

end Sys2Proof.Machine
end

