-- ==== Sys2Proof/Laws/Ops.lean ====
section
/-!
SUPPORT. For each shared operation, lemmas that say once everything it can do: the PIC's calls change the request registers
alone, an end of interrupt the in-service registers alone, the NIC's helpers those and NIC.ISR.
-/

namespace Sys2Proof.Machine

/-! ## Bits -/

/-- The bits of `bit(i)` (00_scope.md R5). -/
@[simp] theorem bit_getLsbD (i j : Nat) : (bit i).getLsbD j = decide (j = i ∧ j < 8) := by
  unfold bit
  rw [BitVec.getLsbD_shiftLeft]
  by_cases h : j = i
  · subst h; by_cases h8 : j < 8 <;> simp [h8]
  · by_cases hlt : j < i
    · simp [hlt, h]
    · have : j - i ≠ 0 := by omega
      simp [h, this]

@[simp] theorem bit_getElem (i j : Nat) (h : j < 8) : (bit i)[j] = decide (j = i) := by
  rw [← BitVec.getLsbD_eq_getElem, bit_getLsbD]
  simp [h]

@[simp] theorem PicChip.request_irr_bit (p : PicChip) (i j : Nat) :
    (p.request i).irr.getLsbD j = (p.irr.getLsbD j || decide (j = i ∧ j < 8)) := by simp

@[simp] theorem PicChip.withdraw_irr_bit (p : PicChip) (i j : Nat) :
    (p.withdraw i).irr.getLsbD j = (p.irr.getLsbD j && !decide (j = i)) := by
  by_cases h : j < 8
  · simp [h]
  · simp [h, BitVec.getLsbD_of_ge p.irr j (by omega)]

@[simp] theorem PicChip.endService_isr_bit (p : PicChip) (i j : Nat) :
    (p.endService i).isr.getLsbD j = (p.isr.getLsbD j && !decide (j = i)) := by
  by_cases h : j < 8
  · simp [h]
  · simp [h, BitVec.getLsbD_of_ge p.isr j (by omega)]

/-- A byte with none of its eight bits set is 0. -/
theorem byte_eq_zero {b : Byte} (h : ∀ i, i < 8 → b.getLsbD i = false) : b = 0 := by
  apply BitVec.eq_of_getLsbD_eq
  intro i hi
  simp [h i hi]

/-- The least set bit (41_pic_ports.md R203, R213). -/
theorem lowestSet_eq_some {b : Byte} {i : Nat} :
    lowestSet b = some i ↔ i < 8 ∧ b.getLsbD i = true ∧ ∀ j, j < i → b.getLsbD j = false := by
  revert b
  have key : ∀ b : Byte, ∀ i : Nat, i < 8 → (lowestSet b = some i ↔ b.getLsbD i = true ∧ ∀ j, j < i → b.getLsbD j = false) := by
    decide
  intro b
  constructor
  · intro h
    have hi : i < 8 := by
      have := List.mem_of_find?_eq_some h
      simp at this
      omega
    exact ⟨hi, (key b i hi).mp h⟩
  · rintro ⟨hi, h⟩
    exact (key b i hi).mpr h

/-- No set bit: the byte is 0. -/
theorem lowestSet_eq_none {b : Byte} : lowestSet b = none ↔ b = 0 := by
  revert b
  decide

/-! ## The request registers alone change -/

theorem SameButRequests.refl (s : State) : SameButRequests s s := rfl

theorem SameButRequests.trans {s t u : State} (h : SameButRequests s t) (k : SameButRequests t u) :
    SameButRequests s u := by
  unfold SameButRequests at *
  rw [h] at k
  simpa using k

theorem SameButRequests.of_irr (s : State) (m l : Byte) :
    SameButRequests s { s with master := { s.master with irr := m }, slave := { s.slave with irr := l } } := rfl

theorem SameButRequests.master {s t : State} (h : SameButRequests s t) : s.master.SameButIrr t.master := by
  unfold SameButRequests at h; rw [h]; rfl

theorem SameButRequests.slave {s t : State} (h : SameButRequests s t) : s.slave.SameButIrr t.slave := by
  unfold SameButRequests at h; rw [h]; rfl

theorem SameButRequests.nic {s t : State} (h : SameButRequests s t) : t.nic = s.nic := by
  unfold SameButRequests at h; rw [h]

/-- `raise` writes the request registers alone (42_pic_lines.md R251). -/
theorem picRaise_requests (line : Nat) (s : State) : SameButRequests s (picRaise line s) := by
  unfold picRaise; repeat' split
  all_goals rfl

/-- `lower` writes the request registers alone (42_pic_lines.md R251). -/
theorem picLower_requests (line : Nat) (s : State) : SameButRequests s (picLower line s) := by
  unfold picLower; repeat' split
  all_goals rfl

theorem raiseIf_requests (b : Byte) (s : State) : SameButRequests s (raiseIf b s) := by
  unfold raiseIf; split
  · exact .refl s
  · exact picRaise_requests _ s

theorem irqFollow_requests (s : State) : SameButRequests s (irqFollow s) := by
  unfold irqFollow; split
  · exact picRaise_requests _ s
  · exact picLower_requests _ s

theorem lowerIfIdle_requests (s : State) : SameButRequests s (lowerIfIdle s) := by
  unfold lowerIfIdle; split
  · exact .refl s
  · exact picLower_requests _ s

@[simp] theorem picRaise_params (l : Nat) (s : State) : (picRaise l s).params = s.params := by rw [picRaise_requests l s]
@[simp] theorem picRaise_bus (l : Nat) (s : State) : (picRaise l s).bus = s.bus := by rw [picRaise_requests l s]
@[simp] theorem picRaise_nic (l : Nat) (s : State) : (picRaise l s).nic = s.nic := by rw [picRaise_requests l s]
@[simp] theorem picRaise_d (l : Nat) (s : State) : (picRaise l s).d = s.d := by rw [picRaise_requests l s]
@[simp] theorem picRaise_result (l : Nat) (s : State) : (picRaise l s).result = s.result := by rw [picRaise_requests l s]
@[simp] theorem picRaise_answers (l : Nat) (s : State) : (picRaise l s).answers = s.answers := by rw [picRaise_requests l s]
@[simp] theorem picRaise_hostWrites (l : Nat) (s : State) : (picRaise l s).hostWrites = s.hostWrites := by rw [picRaise_requests l s]
@[simp] theorem picRaise_draws (l : Nat) (s : State) : (picRaise l s).draws = s.draws := by rw [picRaise_requests l s]
@[simp] theorem picRaise_agenda (l : Nat) (s : State) : (picRaise l s).agenda = s.agenda := by rw [picRaise_requests l s]
@[simp] theorem picRaise_master_counter (l : Nat) (s : State) : (picRaise l s).master.counter = s.master.counter := by rw [picRaise_requests l s]
@[simp] theorem picRaise_master_single (l : Nat) (s : State) : (picRaise l s).master.single = s.master.single := by rw [picRaise_requests l s]
@[simp] theorem picRaise_master_needIcw4 (l : Nat) (s : State) : (picRaise l s).master.needIcw4 = s.master.needIcw4 := by rw [picRaise_requests l s]
@[simp] theorem picRaise_master_level (l : Nat) (s : State) : (picRaise l s).master.level = s.master.level := by rw [picRaise_requests l s]
@[simp] theorem picRaise_master_aeoi (l : Nat) (s : State) : (picRaise l s).master.aeoi = s.master.aeoi := by rw [picRaise_requests l s]
@[simp] theorem picRaise_master_sfnm (l : Nat) (s : State) : (picRaise l s).master.sfnm = s.master.sfnm := by rw [picRaise_requests l s]
@[simp] theorem picRaise_master_imr (l : Nat) (s : State) : (picRaise l s).master.imr = s.master.imr := by rw [picRaise_requests l s]
@[simp] theorem picRaise_master_isr (l : Nat) (s : State) : (picRaise l s).master.isr = s.master.isr := by rw [picRaise_requests l s]
@[simp] theorem picRaise_master_offset (l : Nat) (s : State) : (picRaise l s).master.offset = s.master.offset := by rw [picRaise_requests l s]
@[simp] theorem picRaise_master_readSel (l : Nat) (s : State) : (picRaise l s).master.readSel = s.master.readSel := by rw [picRaise_requests l s]
@[simp] theorem picRaise_slave_counter (l : Nat) (s : State) : (picRaise l s).slave.counter = s.slave.counter := by rw [picRaise_requests l s]
@[simp] theorem picRaise_slave_single (l : Nat) (s : State) : (picRaise l s).slave.single = s.slave.single := by rw [picRaise_requests l s]
@[simp] theorem picRaise_slave_needIcw4 (l : Nat) (s : State) : (picRaise l s).slave.needIcw4 = s.slave.needIcw4 := by rw [picRaise_requests l s]
@[simp] theorem picRaise_slave_level (l : Nat) (s : State) : (picRaise l s).slave.level = s.slave.level := by rw [picRaise_requests l s]
@[simp] theorem picRaise_slave_aeoi (l : Nat) (s : State) : (picRaise l s).slave.aeoi = s.slave.aeoi := by rw [picRaise_requests l s]
@[simp] theorem picRaise_slave_sfnm (l : Nat) (s : State) : (picRaise l s).slave.sfnm = s.slave.sfnm := by rw [picRaise_requests l s]
@[simp] theorem picRaise_slave_imr (l : Nat) (s : State) : (picRaise l s).slave.imr = s.slave.imr := by rw [picRaise_requests l s]
@[simp] theorem picRaise_slave_isr (l : Nat) (s : State) : (picRaise l s).slave.isr = s.slave.isr := by rw [picRaise_requests l s]
@[simp] theorem picRaise_slave_offset (l : Nat) (s : State) : (picRaise l s).slave.offset = s.slave.offset := by rw [picRaise_requests l s]
@[simp] theorem picRaise_slave_readSel (l : Nat) (s : State) : (picRaise l s).slave.readSel = s.slave.readSel := by rw [picRaise_requests l s]

@[simp] theorem picLower_params (l : Nat) (s : State) : (picLower l s).params = s.params := by rw [picLower_requests l s]
@[simp] theorem picLower_bus (l : Nat) (s : State) : (picLower l s).bus = s.bus := by rw [picLower_requests l s]
@[simp] theorem picLower_nic (l : Nat) (s : State) : (picLower l s).nic = s.nic := by rw [picLower_requests l s]
@[simp] theorem picLower_d (l : Nat) (s : State) : (picLower l s).d = s.d := by rw [picLower_requests l s]
@[simp] theorem picLower_result (l : Nat) (s : State) : (picLower l s).result = s.result := by rw [picLower_requests l s]
@[simp] theorem picLower_answers (l : Nat) (s : State) : (picLower l s).answers = s.answers := by rw [picLower_requests l s]
@[simp] theorem picLower_hostWrites (l : Nat) (s : State) : (picLower l s).hostWrites = s.hostWrites := by rw [picLower_requests l s]
@[simp] theorem picLower_draws (l : Nat) (s : State) : (picLower l s).draws = s.draws := by rw [picLower_requests l s]
@[simp] theorem picLower_agenda (l : Nat) (s : State) : (picLower l s).agenda = s.agenda := by rw [picLower_requests l s]
@[simp] theorem picLower_master_counter (l : Nat) (s : State) : (picLower l s).master.counter = s.master.counter := by rw [picLower_requests l s]
@[simp] theorem picLower_master_single (l : Nat) (s : State) : (picLower l s).master.single = s.master.single := by rw [picLower_requests l s]
@[simp] theorem picLower_master_needIcw4 (l : Nat) (s : State) : (picLower l s).master.needIcw4 = s.master.needIcw4 := by rw [picLower_requests l s]
@[simp] theorem picLower_master_level (l : Nat) (s : State) : (picLower l s).master.level = s.master.level := by rw [picLower_requests l s]
@[simp] theorem picLower_master_aeoi (l : Nat) (s : State) : (picLower l s).master.aeoi = s.master.aeoi := by rw [picLower_requests l s]
@[simp] theorem picLower_master_sfnm (l : Nat) (s : State) : (picLower l s).master.sfnm = s.master.sfnm := by rw [picLower_requests l s]
@[simp] theorem picLower_master_imr (l : Nat) (s : State) : (picLower l s).master.imr = s.master.imr := by rw [picLower_requests l s]
@[simp] theorem picLower_master_isr (l : Nat) (s : State) : (picLower l s).master.isr = s.master.isr := by rw [picLower_requests l s]
@[simp] theorem picLower_master_offset (l : Nat) (s : State) : (picLower l s).master.offset = s.master.offset := by rw [picLower_requests l s]
@[simp] theorem picLower_master_readSel (l : Nat) (s : State) : (picLower l s).master.readSel = s.master.readSel := by rw [picLower_requests l s]
@[simp] theorem picLower_slave_counter (l : Nat) (s : State) : (picLower l s).slave.counter = s.slave.counter := by rw [picLower_requests l s]
@[simp] theorem picLower_slave_single (l : Nat) (s : State) : (picLower l s).slave.single = s.slave.single := by rw [picLower_requests l s]
@[simp] theorem picLower_slave_needIcw4 (l : Nat) (s : State) : (picLower l s).slave.needIcw4 = s.slave.needIcw4 := by rw [picLower_requests l s]
@[simp] theorem picLower_slave_level (l : Nat) (s : State) : (picLower l s).slave.level = s.slave.level := by rw [picLower_requests l s]
@[simp] theorem picLower_slave_aeoi (l : Nat) (s : State) : (picLower l s).slave.aeoi = s.slave.aeoi := by rw [picLower_requests l s]
@[simp] theorem picLower_slave_sfnm (l : Nat) (s : State) : (picLower l s).slave.sfnm = s.slave.sfnm := by rw [picLower_requests l s]
@[simp] theorem picLower_slave_imr (l : Nat) (s : State) : (picLower l s).slave.imr = s.slave.imr := by rw [picLower_requests l s]
@[simp] theorem picLower_slave_isr (l : Nat) (s : State) : (picLower l s).slave.isr = s.slave.isr := by rw [picLower_requests l s]
@[simp] theorem picLower_slave_offset (l : Nat) (s : State) : (picLower l s).slave.offset = s.slave.offset := by rw [picLower_requests l s]
@[simp] theorem picLower_slave_readSel (l : Nat) (s : State) : (picLower l s).slave.readSel = s.slave.readSel := by rw [picLower_requests l s]

@[simp] theorem raiseIf_params (b : Byte) (s : State) : (raiseIf b s).params = s.params := by rw [raiseIf_requests b s]
@[simp] theorem raiseIf_bus (b : Byte) (s : State) : (raiseIf b s).bus = s.bus := by rw [raiseIf_requests b s]
@[simp] theorem raiseIf_nic (b : Byte) (s : State) : (raiseIf b s).nic = s.nic := by rw [raiseIf_requests b s]
@[simp] theorem raiseIf_d (b : Byte) (s : State) : (raiseIf b s).d = s.d := by rw [raiseIf_requests b s]
@[simp] theorem raiseIf_result (b : Byte) (s : State) : (raiseIf b s).result = s.result := by rw [raiseIf_requests b s]
@[simp] theorem raiseIf_answers (b : Byte) (s : State) : (raiseIf b s).answers = s.answers := by rw [raiseIf_requests b s]
@[simp] theorem raiseIf_hostWrites (b : Byte) (s : State) : (raiseIf b s).hostWrites = s.hostWrites := by rw [raiseIf_requests b s]
@[simp] theorem raiseIf_draws (b : Byte) (s : State) : (raiseIf b s).draws = s.draws := by rw [raiseIf_requests b s]
@[simp] theorem raiseIf_agenda (b : Byte) (s : State) : (raiseIf b s).agenda = s.agenda := by rw [raiseIf_requests b s]
@[simp] theorem raiseIf_master_counter (b : Byte) (s : State) : (raiseIf b s).master.counter = s.master.counter := by rw [raiseIf_requests b s]
@[simp] theorem raiseIf_master_single (b : Byte) (s : State) : (raiseIf b s).master.single = s.master.single := by rw [raiseIf_requests b s]
@[simp] theorem raiseIf_master_needIcw4 (b : Byte) (s : State) : (raiseIf b s).master.needIcw4 = s.master.needIcw4 := by rw [raiseIf_requests b s]
@[simp] theorem raiseIf_master_level (b : Byte) (s : State) : (raiseIf b s).master.level = s.master.level := by rw [raiseIf_requests b s]
@[simp] theorem raiseIf_master_aeoi (b : Byte) (s : State) : (raiseIf b s).master.aeoi = s.master.aeoi := by rw [raiseIf_requests b s]
@[simp] theorem raiseIf_master_sfnm (b : Byte) (s : State) : (raiseIf b s).master.sfnm = s.master.sfnm := by rw [raiseIf_requests b s]
@[simp] theorem raiseIf_master_imr (b : Byte) (s : State) : (raiseIf b s).master.imr = s.master.imr := by rw [raiseIf_requests b s]
@[simp] theorem raiseIf_master_isr (b : Byte) (s : State) : (raiseIf b s).master.isr = s.master.isr := by rw [raiseIf_requests b s]
@[simp] theorem raiseIf_master_offset (b : Byte) (s : State) : (raiseIf b s).master.offset = s.master.offset := by rw [raiseIf_requests b s]
@[simp] theorem raiseIf_master_readSel (b : Byte) (s : State) : (raiseIf b s).master.readSel = s.master.readSel := by rw [raiseIf_requests b s]
@[simp] theorem raiseIf_slave_counter (b : Byte) (s : State) : (raiseIf b s).slave.counter = s.slave.counter := by rw [raiseIf_requests b s]
@[simp] theorem raiseIf_slave_single (b : Byte) (s : State) : (raiseIf b s).slave.single = s.slave.single := by rw [raiseIf_requests b s]
@[simp] theorem raiseIf_slave_needIcw4 (b : Byte) (s : State) : (raiseIf b s).slave.needIcw4 = s.slave.needIcw4 := by rw [raiseIf_requests b s]
@[simp] theorem raiseIf_slave_level (b : Byte) (s : State) : (raiseIf b s).slave.level = s.slave.level := by rw [raiseIf_requests b s]
@[simp] theorem raiseIf_slave_aeoi (b : Byte) (s : State) : (raiseIf b s).slave.aeoi = s.slave.aeoi := by rw [raiseIf_requests b s]
@[simp] theorem raiseIf_slave_sfnm (b : Byte) (s : State) : (raiseIf b s).slave.sfnm = s.slave.sfnm := by rw [raiseIf_requests b s]
@[simp] theorem raiseIf_slave_imr (b : Byte) (s : State) : (raiseIf b s).slave.imr = s.slave.imr := by rw [raiseIf_requests b s]
@[simp] theorem raiseIf_slave_isr (b : Byte) (s : State) : (raiseIf b s).slave.isr = s.slave.isr := by rw [raiseIf_requests b s]
@[simp] theorem raiseIf_slave_offset (b : Byte) (s : State) : (raiseIf b s).slave.offset = s.slave.offset := by rw [raiseIf_requests b s]
@[simp] theorem raiseIf_slave_readSel (b : Byte) (s : State) : (raiseIf b s).slave.readSel = s.slave.readSel := by rw [raiseIf_requests b s]

@[simp] theorem irqFollow_params (s : State) : (irqFollow s).params = s.params := by rw [irqFollow_requests s]
@[simp] theorem irqFollow_bus (s : State) : (irqFollow s).bus = s.bus := by rw [irqFollow_requests s]
@[simp] theorem irqFollow_nic (s : State) : (irqFollow s).nic = s.nic := by rw [irqFollow_requests s]
@[simp] theorem irqFollow_d (s : State) : (irqFollow s).d = s.d := by rw [irqFollow_requests s]
@[simp] theorem irqFollow_result (s : State) : (irqFollow s).result = s.result := by rw [irqFollow_requests s]
@[simp] theorem irqFollow_answers (s : State) : (irqFollow s).answers = s.answers := by rw [irqFollow_requests s]
@[simp] theorem irqFollow_hostWrites (s : State) : (irqFollow s).hostWrites = s.hostWrites := by rw [irqFollow_requests s]
@[simp] theorem irqFollow_draws (s : State) : (irqFollow s).draws = s.draws := by rw [irqFollow_requests s]
@[simp] theorem irqFollow_agenda (s : State) : (irqFollow s).agenda = s.agenda := by rw [irqFollow_requests s]
@[simp] theorem irqFollow_master_counter (s : State) : (irqFollow s).master.counter = s.master.counter := by rw [irqFollow_requests s]
@[simp] theorem irqFollow_master_single (s : State) : (irqFollow s).master.single = s.master.single := by rw [irqFollow_requests s]
@[simp] theorem irqFollow_master_needIcw4 (s : State) : (irqFollow s).master.needIcw4 = s.master.needIcw4 := by rw [irqFollow_requests s]
@[simp] theorem irqFollow_master_level (s : State) : (irqFollow s).master.level = s.master.level := by rw [irqFollow_requests s]
@[simp] theorem irqFollow_master_aeoi (s : State) : (irqFollow s).master.aeoi = s.master.aeoi := by rw [irqFollow_requests s]
@[simp] theorem irqFollow_master_sfnm (s : State) : (irqFollow s).master.sfnm = s.master.sfnm := by rw [irqFollow_requests s]
@[simp] theorem irqFollow_master_imr (s : State) : (irqFollow s).master.imr = s.master.imr := by rw [irqFollow_requests s]
@[simp] theorem irqFollow_master_isr (s : State) : (irqFollow s).master.isr = s.master.isr := by rw [irqFollow_requests s]
@[simp] theorem irqFollow_master_offset (s : State) : (irqFollow s).master.offset = s.master.offset := by rw [irqFollow_requests s]
@[simp] theorem irqFollow_master_readSel (s : State) : (irqFollow s).master.readSel = s.master.readSel := by rw [irqFollow_requests s]
@[simp] theorem irqFollow_slave_counter (s : State) : (irqFollow s).slave.counter = s.slave.counter := by rw [irqFollow_requests s]
@[simp] theorem irqFollow_slave_single (s : State) : (irqFollow s).slave.single = s.slave.single := by rw [irqFollow_requests s]
@[simp] theorem irqFollow_slave_needIcw4 (s : State) : (irqFollow s).slave.needIcw4 = s.slave.needIcw4 := by rw [irqFollow_requests s]
@[simp] theorem irqFollow_slave_level (s : State) : (irqFollow s).slave.level = s.slave.level := by rw [irqFollow_requests s]
@[simp] theorem irqFollow_slave_aeoi (s : State) : (irqFollow s).slave.aeoi = s.slave.aeoi := by rw [irqFollow_requests s]
@[simp] theorem irqFollow_slave_sfnm (s : State) : (irqFollow s).slave.sfnm = s.slave.sfnm := by rw [irqFollow_requests s]
@[simp] theorem irqFollow_slave_imr (s : State) : (irqFollow s).slave.imr = s.slave.imr := by rw [irqFollow_requests s]
@[simp] theorem irqFollow_slave_isr (s : State) : (irqFollow s).slave.isr = s.slave.isr := by rw [irqFollow_requests s]
@[simp] theorem irqFollow_slave_offset (s : State) : (irqFollow s).slave.offset = s.slave.offset := by rw [irqFollow_requests s]
@[simp] theorem irqFollow_slave_readSel (s : State) : (irqFollow s).slave.readSel = s.slave.readSel := by rw [irqFollow_requests s]

@[simp] theorem lowerIfIdle_params (s : State) : (lowerIfIdle s).params = s.params := by rw [lowerIfIdle_requests s]
@[simp] theorem lowerIfIdle_bus (s : State) : (lowerIfIdle s).bus = s.bus := by rw [lowerIfIdle_requests s]
@[simp] theorem lowerIfIdle_nic (s : State) : (lowerIfIdle s).nic = s.nic := by rw [lowerIfIdle_requests s]
@[simp] theorem lowerIfIdle_d (s : State) : (lowerIfIdle s).d = s.d := by rw [lowerIfIdle_requests s]
@[simp] theorem lowerIfIdle_result (s : State) : (lowerIfIdle s).result = s.result := by rw [lowerIfIdle_requests s]
@[simp] theorem lowerIfIdle_answers (s : State) : (lowerIfIdle s).answers = s.answers := by rw [lowerIfIdle_requests s]
@[simp] theorem lowerIfIdle_hostWrites (s : State) : (lowerIfIdle s).hostWrites = s.hostWrites := by rw [lowerIfIdle_requests s]
@[simp] theorem lowerIfIdle_draws (s : State) : (lowerIfIdle s).draws = s.draws := by rw [lowerIfIdle_requests s]
@[simp] theorem lowerIfIdle_agenda (s : State) : (lowerIfIdle s).agenda = s.agenda := by rw [lowerIfIdle_requests s]
@[simp] theorem lowerIfIdle_master_counter (s : State) : (lowerIfIdle s).master.counter = s.master.counter := by rw [lowerIfIdle_requests s]
@[simp] theorem lowerIfIdle_master_single (s : State) : (lowerIfIdle s).master.single = s.master.single := by rw [lowerIfIdle_requests s]
@[simp] theorem lowerIfIdle_master_needIcw4 (s : State) : (lowerIfIdle s).master.needIcw4 = s.master.needIcw4 := by rw [lowerIfIdle_requests s]
@[simp] theorem lowerIfIdle_master_level (s : State) : (lowerIfIdle s).master.level = s.master.level := by rw [lowerIfIdle_requests s]
@[simp] theorem lowerIfIdle_master_aeoi (s : State) : (lowerIfIdle s).master.aeoi = s.master.aeoi := by rw [lowerIfIdle_requests s]
@[simp] theorem lowerIfIdle_master_sfnm (s : State) : (lowerIfIdle s).master.sfnm = s.master.sfnm := by rw [lowerIfIdle_requests s]
@[simp] theorem lowerIfIdle_master_imr (s : State) : (lowerIfIdle s).master.imr = s.master.imr := by rw [lowerIfIdle_requests s]
@[simp] theorem lowerIfIdle_master_isr (s : State) : (lowerIfIdle s).master.isr = s.master.isr := by rw [lowerIfIdle_requests s]
@[simp] theorem lowerIfIdle_master_offset (s : State) : (lowerIfIdle s).master.offset = s.master.offset := by rw [lowerIfIdle_requests s]
@[simp] theorem lowerIfIdle_master_readSel (s : State) : (lowerIfIdle s).master.readSel = s.master.readSel := by rw [lowerIfIdle_requests s]
@[simp] theorem lowerIfIdle_slave_counter (s : State) : (lowerIfIdle s).slave.counter = s.slave.counter := by rw [lowerIfIdle_requests s]
@[simp] theorem lowerIfIdle_slave_single (s : State) : (lowerIfIdle s).slave.single = s.slave.single := by rw [lowerIfIdle_requests s]
@[simp] theorem lowerIfIdle_slave_needIcw4 (s : State) : (lowerIfIdle s).slave.needIcw4 = s.slave.needIcw4 := by rw [lowerIfIdle_requests s]
@[simp] theorem lowerIfIdle_slave_level (s : State) : (lowerIfIdle s).slave.level = s.slave.level := by rw [lowerIfIdle_requests s]
@[simp] theorem lowerIfIdle_slave_aeoi (s : State) : (lowerIfIdle s).slave.aeoi = s.slave.aeoi := by rw [lowerIfIdle_requests s]
@[simp] theorem lowerIfIdle_slave_sfnm (s : State) : (lowerIfIdle s).slave.sfnm = s.slave.sfnm := by rw [lowerIfIdle_requests s]
@[simp] theorem lowerIfIdle_slave_imr (s : State) : (lowerIfIdle s).slave.imr = s.slave.imr := by rw [lowerIfIdle_requests s]
@[simp] theorem lowerIfIdle_slave_isr (s : State) : (lowerIfIdle s).slave.isr = s.slave.isr := by rw [lowerIfIdle_requests s]
@[simp] theorem lowerIfIdle_slave_offset (s : State) : (lowerIfIdle s).slave.offset = s.slave.offset := by rw [lowerIfIdle_requests s]
@[simp] theorem lowerIfIdle_slave_readSel (s : State) : (lowerIfIdle s).slave.readSel = s.slave.readSel := by rw [lowerIfIdle_requests s]

/-! ## Each request bit after a call (42_pic_lines.md R240, R241) -/

/-- Each master request bit after `raise(line)`. -/
theorem picRaise_master_irr (line : Nat) (s : State) (i : Nat) :
    (picRaise line s).master.irr.getLsbD i =
      (s.master.irr.getLsbD i ||
        decide ((i = line ∧ line < 8 ∧ s.master.imr.getLsbD line = false) ∨
          (i = 2 ∧ 8 ≤ line ∧ line < 16 ∧ s.slave.imr.getLsbD (line - 8) = false ∧ s.master.imr.getLsbD 2 = false))) := by
  unfold picRaise cascadeLine
  by_cases h : line < 8
  · have h8 : ¬ 8 ≤ line := by omega
    rw [if_pos h]
    by_cases hm : s.master.imr.getLsbD line = true
    · simp [hm, h8]
    · by_cases e : i = line
      · subst e
        rw [if_neg hm, decide_eq_true (Or.inl ⟨rfl, h, Bool.eq_false_of_not_eq_true hm⟩)]
        simp [h]
      · rw [if_neg hm]; simp [e, h8]
  · rw [if_neg h]
    by_cases h16 : line < 16
    · have h8 : 8 ≤ line := by omega
      rw [if_pos h16]
      by_cases hs : s.slave.imr.getLsbD (line - 8) = true
      · simp [hs, h]
      · by_cases hm : s.master.imr.getLsbD 2 = true
        · simp [hs, hm, h]
        · by_cases e : i = 2
          · subst e
            rw [if_neg hs, if_neg hm, decide_eq_true
              (Or.inr ⟨rfl, h8, h16, Bool.eq_false_of_not_eq_true hs, Bool.eq_false_of_not_eq_true hm⟩)]
            simp
          · rw [if_neg hs, if_neg hm]; simp [e, h]
    · rw [if_neg h16]
      simp [h, h16]

/-- Each slave request bit after `raise(line)`. -/
theorem picRaise_slave_irr (line : Nat) (s : State) (i : Nat) :
    (picRaise line s).slave.irr.getLsbD i =
      (s.slave.irr.getLsbD i || decide (i + 8 = line ∧ line < 16 ∧ s.slave.imr.getLsbD i = false)) := by
  unfold picRaise
  by_cases h : line < 8
  · rw [decide_eq_false (by omega), if_pos h]
    split <;> simp
  · rw [if_neg h]
    by_cases h16 : line < 16
    · rw [if_pos h16]
      by_cases e : i = line - 8
      · have e8 : i + 8 = line := by omega
        have i8 : i < 8 := by omega
        rw [← e]
        by_cases hs : s.slave.imr.getLsbD i = true
        · simp [hs]
        · split
          · contradiction
          · rw [decide_eq_true ⟨e8, h16, Bool.eq_false_of_not_eq_true hs⟩]
            split <;> simp [i8]
      · rw [decide_eq_false (by omega)]
        split
        · simp
        · split <;> simp [e]
    · rw [if_neg h16, decide_eq_false (by omega)]
      simp

/-- Each master request bit after `lower(line)`. -/
theorem picLower_master_irr (line : Nat) (s : State) (i : Nat) :
    (picLower line s).master.irr.getLsbD i =
      (s.master.irr.getLsbD i && !decide ((i = line ∧ line < 8) ∨ (i = 2 ∧ 8 ≤ line ∧ line < 16))) := by
  unfold picLower cascadeLine
  by_cases h : line < 8
  · have e : ((i = line ∧ line < 8) ∨ (i = 2 ∧ 8 ≤ line ∧ line < 16)) ↔ i = line := by omega
    rw [if_pos h, decide_eq_decide.mpr e]
    exact PicChip.withdraw_irr_bit _ _ _
  · rw [if_neg h]
    by_cases h16 : line < 16
    · have e : ((i = line ∧ line < 8) ∨ (i = 2 ∧ 8 ≤ line ∧ line < 16)) ↔ i = 2 := by omega
      rw [if_pos h16, decide_eq_decide.mpr e]
      exact PicChip.withdraw_irr_bit _ _ _
    · rw [if_neg h16, decide_eq_false (by omega)]
      simp

/-- Each slave request bit after `lower(line)`. -/
theorem picLower_slave_irr (line : Nat) (s : State) (i : Nat) :
    (picLower line s).slave.irr.getLsbD i =
      (s.slave.irr.getLsbD i && !decide (i + 8 = line ∧ line < 16)) := by
  unfold picLower
  by_cases h : line < 8
  · rw [if_pos h, decide_eq_false (by omega)]
    simp
  · rw [if_neg h]
    by_cases h16 : line < 16
    · have e : (i + 8 = line ∧ line < 16) ↔ i = line - 8 := by omega
      rw [if_pos h16, decide_eq_decide.mpr e]
      exact PicChip.withdraw_irr_bit _ _ _
    · rw [if_neg h16, decide_eq_false (by omega)]
      simp

/-! ## The calls as one record update each -/

/-- The master after `raise(line)`, from the two chips. -/
def raisedMaster (line : Nat) (m l : PicChip) : PicChip :=
  if line < 8 then (if m.imr.getLsbD line then m else m.request line)
  else if line < 16 then
    (if l.imr.getLsbD (line - 8) then m else if m.imr.getLsbD cascadeLine then m else m.request cascadeLine)
  else m

/-- The slave after `raise(line)`. -/
def raisedSlave (line : Nat) (l : PicChip) : PicChip :=
  if line < 8 then l
  else if line < 16 then (if l.imr.getLsbD (line - 8) then l else l.request (line - 8))
  else l

/-- The master after `lower(line)`. -/
def loweredMaster (line : Nat) (m : PicChip) : PicChip :=
  if line < 8 then m.withdraw line else if line < 16 then m.withdraw cascadeLine else m

/-- The slave after `lower(line)`. -/
def loweredSlave (line : Nat) (l : PicChip) : PicChip :=
  if line < 8 then l else if line < 16 then l.withdraw (line - 8) else l

/-- `raise(line)` as one update: what it does to the chips depends on the chips alone, so it commutes with every update of
anything else. -/
theorem picRaise_eq (line : Nat) (s : State) :
    picRaise line s =
      { s with master := raisedMaster line s.master s.slave, slave := raisedSlave line s.slave } := by
  unfold picRaise raisedMaster raisedSlave
  split
  · split <;> rfl
  · split
    · split
      · rfl
      · split <;> rfl
    · rfl

/-- `lower(line)` as one update. -/
theorem picLower_eq (line : Nat) (s : State) :
    picLower line s = { s with master := loweredMaster line s.master, slave := loweredSlave line s.slave } := by
  unfold picLower loweredMaster loweredSlave
  split
  · rfl
  · split <;> rfl

/-- `raise_if(bits)` as one update (43_ne2000_regs.md R280). -/
theorem raiseIf_eq (b : Byte) (s : State) :
    raiseIf b s =
      { s with
        master := if b &&& s.nic.imr = 0 then s.master else raisedMaster s.params.nicIrqLine s.master s.slave
        slave := if b &&& s.nic.imr = 0 then s.slave else raisedSlave s.params.nicIrqLine s.slave } := by
  unfold raiseIf
  rw [picRaise_eq]
  split <;> rfl

/-- `pic_lower(L)` when no unmasked cause remains, as one update. -/
theorem lowerIfIdle_eq (s : State) :
    lowerIfIdle s =
      { s with
        master := if s.nic.isr &&& s.nic.imr = 0 then loweredMaster s.params.nicIrqLine s.master else s.master
        slave := if s.nic.isr &&& s.nic.imr = 0 then loweredSlave s.params.nicIrqLine s.slave else s.slave } := by
  unfold lowerIfIdle Nic.irqPending
  rw [picLower_eq]
  by_cases h : s.nic.isr &&& s.nic.imr = 0
  · rw [if_pos h, if_pos h, h]
    rfl
  · rw [if_neg h, if_neg h, if_pos (bne_iff_ne.mpr h)]

/-! ## Acknowledgement (42_pic_lines.md R246) -/

/-- The three things `acquire-vector` can do: take a master line, take a slave line through the cascade, or nothing. -/
theorem acquireVector_cases (s : State) :
    (∃ i, masterLines.find? s.master.cand = some i ∧
      acquireVector s = (some (s.master.vectorOf i), { s with master := s.master.acknowledge i })) ∨
    (∃ j, masterLines.find? s.master.cand = none ∧ s.master.cand 2 = true ∧ slaveLines.find? s.slave.cand = some j ∧
      acquireVector s = (some (s.slave.vectorOf j),
        { s with
          slave := s.slave.acknowledge j
          master := s.master.acknowledgeCascade ((s.slave.acknowledge j).irr == 0) })) ∨
    (masterLines.find? s.master.cand = none ∧ (s.master.cand 2 = false ∨ slaveLines.find? s.slave.cand = none) ∧
      acquireVector s = (none, s)) := by
  unfold acquireVector cascadeLine
  cases h1 : masterLines.find? s.master.cand with
  | some i => exact .inl ⟨i, by simp⟩
  | none =>
    by_cases h2 : s.master.cand 2 = true
    · cases h3 : slaveLines.find? s.slave.cand with
      | some j => exact .inr (.inl ⟨j, by simp [h2]⟩)
      | none => exact .inr (.inr (by simp [h2]))
    · exact .inr (.inr (by simp [h2]))

/-- What acknowledgement leaves of a chip: everything but IRR and ISR. -/
theorem PicChip.acknowledge_eq (p : PicChip) (i : Nat) :
    p.acknowledge i =
      { p with irr := p.irr &&& ~~~(bit i), isr := if p.aeoi then p.isr else p.isr ||| bit i } := by
  unfold PicChip.acknowledge PicChip.serve PicChip.withdraw; split <;> rfl

/-- What the master's part of a slave acknowledgement leaves of the master: everything but IRR and ISR. -/
theorem PicChip.acknowledgeCascade_eq (p : PicChip) (e : Bool) :
    p.acknowledgeCascade e =
      { p with
        irr := if e then p.irr &&& ~~~(bit 2) else p.irr
        isr := if p.aeoi then p.isr else p.isr ||| bit 2 } := by
  unfold PicChip.acknowledgeCascade PicChip.serve PicChip.withdraw cascadeLine
  obtain ⟨_, _, _, _, a, _, _, _, _, _, _⟩ := p
  cases e <;> cases a <;> rfl

/-! ## End of interrupt (41_pic_ports.md R202, R203, R213) -/

/-- A non-specific EOI changes a chip's ISR alone: the lowest set bit is cleared, or nothing. -/
theorem PicChip.nonspecificEoi_cases (p : PicChip) :
    (p.isr = 0 ∧ p.nonspecificEoi = p) ∨
      ∃ i, lowestSet p.isr = some i ∧ p.nonspecificEoi = { p with isr := p.isr &&& ~~~(bit i) } := by
  unfold PicChip.nonspecificEoi
  cases h : lowestSet p.isr with
  | none => exact .inl ⟨lowestSet_eq_none.mp h, rfl⟩
  | some i => exact .inr ⟨i, rfl, rfl⟩

/-- The three things an end of interrupt with target line `i` can do. -/
theorem picEndOfInterrupt_cases (c : Chip) (i : Nat) (s : State) :
    (c = .master ∧ i = 2 ∧ picEndOfInterrupt c i s =
      { s with master := s.master.endService 2, slave := s.slave.nonspecificEoi }) ∨
    (c = .master ∧ i ≠ 2 ∧ picEndOfInterrupt c i s = { s with master := s.master.endService i }) ∨
    (c = .slave ∧ picEndOfInterrupt c i s = { s with slave := s.slave.endService i }) := by
  unfold picEndOfInterrupt cascadeLine
  cases c
  · by_cases h : i = 2
    · subst h; simp
    · simp [h]
  · simp

/-! ## The NIC's helpers -/

/-- `signal` sets NIC.ISR bits and changes nothing else of the NIC. -/
@[simp] theorem signal_nic (b : Byte) (s : State) :
    (signal b s).nic = { s.nic with isr := s.nic.isr ||| b } := by simp [signal]

/-- `signal` beside NIC.ISR changes the request registers alone. -/
theorem signal_requests (b : Byte) (s : State) :
    SameButRequests { s with nic := { s.nic with isr := s.nic.isr ||| b } } (signal b s) := raiseIf_requests _ _

/-- `report(k)` sets `errIsr(k)` and changes nothing else of the NIC (43_ne2000_regs.md R307). -/
@[simp] theorem report_nic (k : NicErrKind) (s : State) :
    (report k s).nic = { s.nic with isr := s.nic.isr ||| s.params.errIsr k } := by simp [report]

@[simp] theorem signal_params (b : Byte) (s : State) : (signal b s).params = s.params := by simp [signal]
@[simp] theorem signal_bus (b : Byte) (s : State) : (signal b s).bus = s.bus := by simp [signal]
@[simp] theorem signal_d (b : Byte) (s : State) : (signal b s).d = s.d := by simp [signal]
@[simp] theorem signal_result (b : Byte) (s : State) : (signal b s).result = s.result := by simp [signal]
@[simp] theorem signal_answers (b : Byte) (s : State) : (signal b s).answers = s.answers := by simp [signal]
@[simp] theorem signal_hostWrites (b : Byte) (s : State) : (signal b s).hostWrites = s.hostWrites := by simp [signal]
@[simp] theorem signal_draws (b : Byte) (s : State) : (signal b s).draws = s.draws := by simp [signal]
@[simp] theorem signal_agenda (b : Byte) (s : State) : (signal b s).agenda = s.agenda := by simp [signal]
@[simp] theorem signal_master_counter (b : Byte) (s : State) : (signal b s).master.counter = s.master.counter := by simp [signal]
@[simp] theorem signal_master_single (b : Byte) (s : State) : (signal b s).master.single = s.master.single := by simp [signal]
@[simp] theorem signal_master_needIcw4 (b : Byte) (s : State) : (signal b s).master.needIcw4 = s.master.needIcw4 := by simp [signal]
@[simp] theorem signal_master_level (b : Byte) (s : State) : (signal b s).master.level = s.master.level := by simp [signal]
@[simp] theorem signal_master_aeoi (b : Byte) (s : State) : (signal b s).master.aeoi = s.master.aeoi := by simp [signal]
@[simp] theorem signal_master_sfnm (b : Byte) (s : State) : (signal b s).master.sfnm = s.master.sfnm := by simp [signal]
@[simp] theorem signal_master_imr (b : Byte) (s : State) : (signal b s).master.imr = s.master.imr := by simp [signal]
@[simp] theorem signal_master_isr (b : Byte) (s : State) : (signal b s).master.isr = s.master.isr := by simp [signal]
@[simp] theorem signal_master_offset (b : Byte) (s : State) : (signal b s).master.offset = s.master.offset := by simp [signal]
@[simp] theorem signal_master_readSel (b : Byte) (s : State) : (signal b s).master.readSel = s.master.readSel := by simp [signal]
@[simp] theorem signal_slave_counter (b : Byte) (s : State) : (signal b s).slave.counter = s.slave.counter := by simp [signal]
@[simp] theorem signal_slave_single (b : Byte) (s : State) : (signal b s).slave.single = s.slave.single := by simp [signal]
@[simp] theorem signal_slave_needIcw4 (b : Byte) (s : State) : (signal b s).slave.needIcw4 = s.slave.needIcw4 := by simp [signal]
@[simp] theorem signal_slave_level (b : Byte) (s : State) : (signal b s).slave.level = s.slave.level := by simp [signal]
@[simp] theorem signal_slave_aeoi (b : Byte) (s : State) : (signal b s).slave.aeoi = s.slave.aeoi := by simp [signal]
@[simp] theorem signal_slave_sfnm (b : Byte) (s : State) : (signal b s).slave.sfnm = s.slave.sfnm := by simp [signal]
@[simp] theorem signal_slave_imr (b : Byte) (s : State) : (signal b s).slave.imr = s.slave.imr := by simp [signal]
@[simp] theorem signal_slave_isr (b : Byte) (s : State) : (signal b s).slave.isr = s.slave.isr := by simp [signal]
@[simp] theorem signal_slave_offset (b : Byte) (s : State) : (signal b s).slave.offset = s.slave.offset := by simp [signal]
@[simp] theorem signal_slave_readSel (b : Byte) (s : State) : (signal b s).slave.readSel = s.slave.readSel := by simp [signal]

@[simp] theorem report_params (k : NicErrKind) (s : State) : (report k s).params = s.params := by simp [report]
@[simp] theorem report_bus (k : NicErrKind) (s : State) : (report k s).bus = s.bus := by simp [report]
@[simp] theorem report_d (k : NicErrKind) (s : State) : (report k s).d = s.d := by simp [report]
@[simp] theorem report_result (k : NicErrKind) (s : State) : (report k s).result = s.result := by simp [report]
@[simp] theorem report_answers (k : NicErrKind) (s : State) : (report k s).answers = s.answers := by simp [report]
@[simp] theorem report_hostWrites (k : NicErrKind) (s : State) : (report k s).hostWrites = s.hostWrites := by simp [report]
@[simp] theorem report_draws (k : NicErrKind) (s : State) : (report k s).draws = s.draws := by simp [report]
@[simp] theorem report_agenda (k : NicErrKind) (s : State) : (report k s).agenda = s.agenda := by simp [report]
@[simp] theorem report_master_counter (k : NicErrKind) (s : State) : (report k s).master.counter = s.master.counter := by simp [report]
@[simp] theorem report_master_single (k : NicErrKind) (s : State) : (report k s).master.single = s.master.single := by simp [report]
@[simp] theorem report_master_needIcw4 (k : NicErrKind) (s : State) : (report k s).master.needIcw4 = s.master.needIcw4 := by simp [report]
@[simp] theorem report_master_level (k : NicErrKind) (s : State) : (report k s).master.level = s.master.level := by simp [report]
@[simp] theorem report_master_aeoi (k : NicErrKind) (s : State) : (report k s).master.aeoi = s.master.aeoi := by simp [report]
@[simp] theorem report_master_sfnm (k : NicErrKind) (s : State) : (report k s).master.sfnm = s.master.sfnm := by simp [report]
@[simp] theorem report_master_imr (k : NicErrKind) (s : State) : (report k s).master.imr = s.master.imr := by simp [report]
@[simp] theorem report_master_isr (k : NicErrKind) (s : State) : (report k s).master.isr = s.master.isr := by simp [report]
@[simp] theorem report_master_offset (k : NicErrKind) (s : State) : (report k s).master.offset = s.master.offset := by simp [report]
@[simp] theorem report_master_readSel (k : NicErrKind) (s : State) : (report k s).master.readSel = s.master.readSel := by simp [report]
@[simp] theorem report_slave_counter (k : NicErrKind) (s : State) : (report k s).slave.counter = s.slave.counter := by simp [report]
@[simp] theorem report_slave_single (k : NicErrKind) (s : State) : (report k s).slave.single = s.slave.single := by simp [report]
@[simp] theorem report_slave_needIcw4 (k : NicErrKind) (s : State) : (report k s).slave.needIcw4 = s.slave.needIcw4 := by simp [report]
@[simp] theorem report_slave_level (k : NicErrKind) (s : State) : (report k s).slave.level = s.slave.level := by simp [report]
@[simp] theorem report_slave_aeoi (k : NicErrKind) (s : State) : (report k s).slave.aeoi = s.slave.aeoi := by simp [report]
@[simp] theorem report_slave_sfnm (k : NicErrKind) (s : State) : (report k s).slave.sfnm = s.slave.sfnm := by simp [report]
@[simp] theorem report_slave_imr (k : NicErrKind) (s : State) : (report k s).slave.imr = s.slave.imr := by simp [report]
@[simp] theorem report_slave_isr (k : NicErrKind) (s : State) : (report k s).slave.isr = s.slave.isr := by simp [report]
@[simp] theorem report_slave_offset (k : NicErrKind) (s : State) : (report k s).slave.offset = s.slave.offset := by simp [report]
@[simp] theorem report_slave_readSel (k : NicErrKind) (s : State) : (report k s).slave.readSel = s.slave.readSel := by simp [report]

@[simp] theorem picEndOfInterrupt_params (c : Chip) (i : Nat) (s : State) : (picEndOfInterrupt c i s).params = s.params := by
  rcases picEndOfInterrupt_cases c i s with ⟨_, _, e⟩ | ⟨_, _, e⟩ | ⟨_, e⟩ <;> rw [e]
@[simp] theorem picEndOfInterrupt_bus (c : Chip) (i : Nat) (s : State) : (picEndOfInterrupt c i s).bus = s.bus := by
  rcases picEndOfInterrupt_cases c i s with ⟨_, _, e⟩ | ⟨_, _, e⟩ | ⟨_, e⟩ <;> rw [e]
@[simp] theorem picEndOfInterrupt_nic (c : Chip) (i : Nat) (s : State) : (picEndOfInterrupt c i s).nic = s.nic := by
  rcases picEndOfInterrupt_cases c i s with ⟨_, _, e⟩ | ⟨_, _, e⟩ | ⟨_, e⟩ <;> rw [e]
@[simp] theorem picEndOfInterrupt_d (c : Chip) (i : Nat) (s : State) : (picEndOfInterrupt c i s).d = s.d := by
  rcases picEndOfInterrupt_cases c i s with ⟨_, _, e⟩ | ⟨_, _, e⟩ | ⟨_, e⟩ <;> rw [e]
@[simp] theorem picEndOfInterrupt_result (c : Chip) (i : Nat) (s : State) : (picEndOfInterrupt c i s).result = s.result := by
  rcases picEndOfInterrupt_cases c i s with ⟨_, _, e⟩ | ⟨_, _, e⟩ | ⟨_, e⟩ <;> rw [e]
@[simp] theorem picEndOfInterrupt_answers (c : Chip) (i : Nat) (s : State) : (picEndOfInterrupt c i s).answers = s.answers := by
  rcases picEndOfInterrupt_cases c i s with ⟨_, _, e⟩ | ⟨_, _, e⟩ | ⟨_, e⟩ <;> rw [e]
@[simp] theorem picEndOfInterrupt_hostWrites (c : Chip) (i : Nat) (s : State) : (picEndOfInterrupt c i s).hostWrites = s.hostWrites := by
  rcases picEndOfInterrupt_cases c i s with ⟨_, _, e⟩ | ⟨_, _, e⟩ | ⟨_, e⟩ <;> rw [e]
@[simp] theorem picEndOfInterrupt_draws (c : Chip) (i : Nat) (s : State) : (picEndOfInterrupt c i s).draws = s.draws := by
  rcases picEndOfInterrupt_cases c i s with ⟨_, _, e⟩ | ⟨_, _, e⟩ | ⟨_, e⟩ <;> rw [e]
@[simp] theorem picEndOfInterrupt_agenda (c : Chip) (i : Nat) (s : State) : (picEndOfInterrupt c i s).agenda = s.agenda := by
  rcases picEndOfInterrupt_cases c i s with ⟨_, _, e⟩ | ⟨_, _, e⟩ | ⟨_, e⟩ <;> rw [e]

@[simp] theorem acquireVector_params (s : State) : ((acquireVector s).2).params = s.params := by
  rcases acquireVector_cases s with ⟨_, _, e⟩ | ⟨_, _, _, _, e⟩ | ⟨_, _, e⟩ <;> rw [e]
@[simp] theorem acquireVector_bus (s : State) : ((acquireVector s).2).bus = s.bus := by
  rcases acquireVector_cases s with ⟨_, _, e⟩ | ⟨_, _, _, _, e⟩ | ⟨_, _, e⟩ <;> rw [e]
@[simp] theorem acquireVector_nic (s : State) : ((acquireVector s).2).nic = s.nic := by
  rcases acquireVector_cases s with ⟨_, _, e⟩ | ⟨_, _, _, _, e⟩ | ⟨_, _, e⟩ <;> rw [e]
@[simp] theorem acquireVector_d (s : State) : ((acquireVector s).2).d = s.d := by
  rcases acquireVector_cases s with ⟨_, _, e⟩ | ⟨_, _, _, _, e⟩ | ⟨_, _, e⟩ <;> rw [e]
@[simp] theorem acquireVector_result (s : State) : ((acquireVector s).2).result = s.result := by
  rcases acquireVector_cases s with ⟨_, _, e⟩ | ⟨_, _, _, _, e⟩ | ⟨_, _, e⟩ <;> rw [e]
@[simp] theorem acquireVector_answers (s : State) : ((acquireVector s).2).answers = s.answers := by
  rcases acquireVector_cases s with ⟨_, _, e⟩ | ⟨_, _, _, _, e⟩ | ⟨_, _, e⟩ <;> rw [e]
@[simp] theorem acquireVector_hostWrites (s : State) : ((acquireVector s).2).hostWrites = s.hostWrites := by
  rcases acquireVector_cases s with ⟨_, _, e⟩ | ⟨_, _, _, _, e⟩ | ⟨_, _, e⟩ <;> rw [e]
@[simp] theorem acquireVector_draws (s : State) : ((acquireVector s).2).draws = s.draws := by
  rcases acquireVector_cases s with ⟨_, _, e⟩ | ⟨_, _, _, _, e⟩ | ⟨_, _, e⟩ <;> rw [e]
@[simp] theorem acquireVector_agenda (s : State) : ((acquireVector s).2).agenda = s.agenda := by
  rcases acquireVector_cases s with ⟨_, _, e⟩ | ⟨_, _, _, _, e⟩ | ⟨_, _, e⟩ <;> rw [e]

/-- An access of a width the slot does not take changes, of the NIC, ISR alone (43_ne2000_regs.md R305). -/
@[simp] theorem badWidthAccess_nic (d : Dir) (w : Width) (s : State) :
    (badWidthAccess d w s).nic = { s.nic with isr := s.nic.isr ||| s.params.errIsr .badWidth } := by
  simp [badWidthAccess]

/-- The NIC after a reset (70_reset_and_hazards.md R471, R472). -/
@[simp] theorem nicReset_nic (s : State) : (nicReset s).nic = s.nic.afterReset s.params := by simp [nicReset]

/-- A NIC reset touches the PIC through `pic_lower` alone (R472). -/
theorem nicReset_requests (s : State) :
    SameButRequests { s with nic := s.nic.afterReset s.params } (nicReset s) := picLower_requests _ _

/-- A reset keeps the canonical form of RAM. -/
theorem Nic.afterReset_ram_wf {n : Nic} (p : Params) (h : n.ram.wf) : (n.afterReset p).ram.wf :=
  Memory.wf_writeRun h (by simp)

/-! ## Command register and remote DMA -/

/-- CR as a write leaves it: TXP clear, and never STA with STP (10_state.md R51). -/
theorem crAfter_ok (v : Byte) :
    (crAfter v).getLsbD 2 = false ∧ ((crAfter v).getLsbD 0 = true → (crAfter v).getLsbD 1 = false) := by
  revert v; decide

/-- What a transmit does (44_ne2000_cr_dma_tx.md R350). -/
theorem transmit_cases (s : State) :
    (s.nic.txFits = true ∧ transmit s =
      signal (if s.answers.hostWriteOk then isrPtx else isrTxe)
        { s with hostWrites := s.hostWrites ++ [⟨s.nic.txFrame, s.answers.hostWriteOk⟩] }) ∨
    (s.nic.txFits = false ∧ transmit s = signal isrTxe s) := by
  unfold transmit
  cases h : s.nic.txFits <;> simp

/-- The frame handed to the host has a legal length (R350). -/
theorem Nic.txFrame_length {n : Nic} (h : n.txFits = true) :
    minTxFrame ≤ n.txFrame.length ∧ n.txFrame.length ≤ maxFrame := by
  simp only [Nic.txFits, Bool.and_eq_true, decide_eq_true_eq] at h
  simpa [Nic.txFrame] using h.1

/-- What the completion check does to the NIC (44_ne2000_cr_dma_tx.md R343). -/
theorem dmaCompleteCheck_nic (s : State) :
    (dmaCompleteCheck s).nic =
      if s.nic.dmaCount ≤ s.nic.dmaProgress then
        { s.nic with isr := s.nic.isr ||| isrRdc, dmaProgress := 0 }
      else s.nic := by
  unfold dmaCompleteCheck
  split <;> simp

/-- What a DMA failure does to the NIC (R345). -/
@[simp] theorem dmaFail_nic (s : State) :
    (dmaFail s).nic =
      { s.nic with isr := s.nic.isr ||| s.params.errIsr .dmaBounds, dmaProgress := 0, dmaArmed := false } := by
  simp [dmaFail]

/-- What a remote-DMA command does: it writes `dmaArmed` and `dmaProgress` alone (R341). -/
theorem rdCommand_cases (rd : BitVec 3) (s : State) :
    rdCommand rd s = s ∨ rdCommand rd s = { s with nic := { s.nic with dmaArmed := false, dmaProgress := 0 } } ∨
      rdCommand rd s = { s with nic := { s.nic with dmaArmed := true } } := by
  unfold rdCommand
  repeat' split
  all_goals simp

/-- Of the NIC a transmit changes ISR alone. -/
theorem transmit_nic (s : State) : (transmit s).nic = { s.nic with isr := (transmit s).nic.isr } := by
  rcases transmit_cases s with ⟨_, e⟩ | ⟨_, e⟩ <;> rw [e] <;> simp

/-- What holds after step 1 of a CR write and survives each of its other steps holds after the write (R340). -/
theorem crWrite_induct {P : State → Prop} (v : Byte) (s : State)
    (first : P { s with nic := { s.nic with cr := crAfter v } }) (stop : ∀ t, P t → P (crStop t))
    (start : ∀ t, P t → P (crStart t)) (tx : ∀ t, P t → P (transmit t))
    (rd : ∀ t, P t → P (rdCommand (v.extractLsb' 3 3) t)) : P (crWrite v s) := by
  have pick : ∀ (c : Bool) (x y : State), P x → P y → P (if c = true then x else y) := by
    intro c x y hx hy
    cases c
    · exact hy
    · exact hx
  have two := pick (v.getLsbD 0) _ _ (stop _ first) first
  have three := pick (v.getLsbD 1 && !v.getLsbD 0) _ _ (start _ two) two
  exact rd _ (pick _ _ _ (tx _ three) three)

/-- Of the NIC a CR write changes CR, ISR and the hidden DMA state alone, and the progress counter stays or becomes 0
(R340, R341). -/
theorem crWrite_nic (v : Byte) (s : State) :
    ∃ (i : Byte) (p : Nat) (a : Bool), (p = s.nic.dmaProgress ∨ p = 0) ∧
      (crWrite v s).nic = { s.nic with cr := crAfter v, isr := i, dmaProgress := p, dmaArmed := a } := by
  refine crWrite_induct (P := fun t => ∃ (i : Byte) (p : Nat) (a : Bool), (p = s.nic.dmaProgress ∨ p = 0) ∧
      t.nic = { s.nic with cr := crAfter v, isr := i, dmaProgress := p, dmaArmed := a }) v s ?_ ?_ ?_ ?_ ?_
  · exact ⟨s.nic.isr, s.nic.dmaProgress, s.nic.dmaArmed, .inl rfl, rfl⟩
  · rintro t ⟨i, p, a, hp, e⟩
    exact ⟨_, 0, a, .inr rfl, by simp [crStop, e]; rfl⟩
  · rintro t ⟨i, p, a, hp, e⟩
    exact ⟨_, p, a, hp, by simp [crStart, e]; rfl⟩
  · rintro t ⟨i, p, a, hp, e⟩
    exact ⟨_, p, a, hp, by rw [transmit_nic, e]⟩
  · rintro t ⟨i, p, a, hp, e⟩
    rcases rdCommand_cases (v.extractLsb' 3 3) t with h | h | h <;> rw [h]
    · exact ⟨i, p, a, hp, e⟩
    · exact ⟨i, 0, false, .inr rfl, by simp [e]⟩
    · exact ⟨i, p, true, hp, by simp [e]⟩

/-- CR, progress and arming after a reset (70_reset_and_hazards.md R471, R472). -/
theorem Nic.afterReset_cr (n : Nic) (p : Params) : (n.afterReset p).cr = 0x01 := rfl

/-- What a transfer does to the NIC after its bytes have moved: the progress counter, and at the count RDC (R342, R343). -/
theorem dmaAdvance_nic (w : Width) (s : State) :
    (dmaAdvance w s).nic =
      if s.nic.dmaCount ≤ s.nic.dmaProgress + widthBytes w then
        { s.nic with isr := s.nic.isr ||| isrRdc, dmaProgress := 0 }
      else { s.nic with dmaProgress := s.nic.dmaProgress + widthBytes w } := by
  unfold dmaAdvance
  rw [dmaCompleteCheck_nic]
  rfl

/-- The four things a delivery can do (45_ne2000_rx.md R394 to R397). -/
theorem deliver_cases (packet : List Byte) (s : State) :
    (maxFrame < packet.length ∧ deliver packet s = .next (signal isrRxe s)) ∨
    (packet.length ≤ maxFrame ∧ s.nic.ringOk (ringPages packet.length) = false ∧
      deliver packet s = .fault .ringConfig) ∨
    (packet.length ≤ maxFrame ∧ s.nic.ringOk (ringPages packet.length) = true ∧
      s.nic.ringNext (ringPages packet.length) = s.nic.bnry.toNat ∧ deliver packet s = .next (signal isrOvw s)) ∨
    (packet.length ≤ maxFrame ∧ s.nic.ringOk (ringPages packet.length) = true ∧
      s.nic.ringNext (ringPages packet.length) ≠ s.nic.bnry.toNat ∧
      deliver packet s = .next (ringCommit packet s)) := by
  unfold deliver
  by_cases h1 : maxFrame < packet.length
  · exact .inl ⟨h1, if_pos h1⟩
  · have h1' : packet.length ≤ maxFrame := by omega
    rw [if_neg h1]
    cases h2 : s.nic.ringOk (ringPages packet.length)
    · exact .inr (.inl ⟨h1', rfl, rfl⟩)
    · by_cases h3 : s.nic.ringNext (ringPages packet.length) = s.nic.bnry.toNat
      · exact .inr (.inr (.inl ⟨h1', rfl, h3, by simp [h3]⟩))
      · exact .inr (.inr (.inr ⟨h1', rfl, h3, by simp [h3]⟩))

/-- Storing a packet changes, of the NIC, RAM, CURR and ISR (R397). -/
@[simp] theorem ringCommit_nic (packet : List Byte) (s : State) :
    (ringCommit packet s).nic =
      { s.nic with
        ram := s.nic.ringStore packet
        curr := BitVec.ofNat 8 (s.nic.ringNext (ringPages packet.length))
        isr := s.nic.isr ||| isrPrx } := by simp [ringCommit]

/-- A pair of bytes is a 16-bit number. -/
theorem pair_lt (hi lo : Byte) : pair hi lo < 65536 := by unfold pair; omega

/-- The bound the data port checks (R342). -/
theorem Nic.dmaInRam_iff (n : Nic) (w : Width) :
    n.dmaInRam w = true ↔ n.dmaAddr + n.dmaProgress + widthBytes w ≤ 65536 := by
  simp only [Nic.dmaInRam, Nic.dmaPos, ramSize]
  exact decide_eq_true_iff

@[simp] theorem State.outBytes_length (s : State) (w : Width) (v : Byte) :
    (s.outBytes w v).length = widthBytes w := by cases w <;> simp [State.outBytes, widthBytes]

end Sys2Proof.Machine
end

