-- ==== Sys2Proof/Tests/Slice0.lean ====
section
/-!
SUPPORT. The author's own tests: ill-formed terms that well-formedness refuses, words written out from the spec's layouts
(30_encoding.md R142, R144 and the worked encodings of section 6) with what they decode to, single steps with the values of
the rules' own examples, and for each statement with hypotheses a witness that they can be met.
-/

namespace Sys2Proof.Tests

open Sys2Proof Sys2Proof.Machine

/-! ## Well-formedness: one ill-formed term for each check -/

theorem test_wf_refuses_command_bytes :
    (Instr.picIcw1 .master 0x0F).wf = false ∧ (Instr.picOcw2EoiSpec .master 0x20).wf = false ∧
    (Instr.picOcw2EoiSpec .master 0x72).wf = false ∧ (Instr.picOcw2Eoi .slave 0x60).wf = false ∧
    (Instr.picOcw2Eoi .slave 0x28).wf = false ∧ (Instr.picOcw2Nop .master 0x20).wf = false ∧
    (Instr.picOcw3 .master 0x1B).wf = false ∧ (Instr.picOcw3 .master 0x03).wf = false := by decide

theorem test_wf_refuses_widths :
    (Instr.picWide .master .data .input .w1 0).wf = false ∧ (Instr.nicDataIn .w4).wf = false ∧
    (Instr.nicDataOut .w4 0).wf = false ∧ (Instr.nicBadwidth 0x07 .input .w1 0).wf = false ∧
    (Instr.nicBadwidth 0x10 .input .w2 0).wf = false ∧ (Instr.nicBadwidth 0x1F .input .w2 0).wf = false := by decide

theorem test_wf_refuses_data_of_an_in :
    (Instr.picWide .master .data .input .w2 1).wf = false ∧ (Instr.nicInvalid 0x11 0 .input .w1 1).wf = false ∧
    (Instr.nicBadwidth 0x07 .input .w2 1).wf = false ∧ (Instr.busExt 0x60 .input .w1 1).wf = false ∧
    (Instr.busUnmapped 0x80 .input .w1 1).wf = false := by decide

theorem test_wf_refuses_slots_and_ports :
    (Instr.nicInvalid 0x07 0 .input .w1 0).wf = false ∧ (Instr.nicInvalid 0x00 3 .input .w1 0).wf = false ∧
    (Instr.nicInvalid 0x01 2 .input .w2 0).wf = false ∧ (Instr.nicInvalid 0x10 0 .input .w1 0).wf = false ∧
    (Instr.busExt 0x80 .input .w1 0).wf = false ∧ (Instr.busExt 0x20 .input .w1 0).wf = false ∧
    (Instr.busUnmapped 0x3F8 .input .w1 0).wf = false ∧ (Instr.busUnmapped 0x31F .output .w1 0).wf = false := by decide

/-! ## Words of the encoding, by fields -/

theorem test_decode_pic_commands :
    decode 0x02210020 = .ok (.picIcw1 .master 0x11) ∧
    decode 0x6C4100A0 = .ok (.picOcw2EoiSpec .slave 0x62) ∧
    decode 0x040100A0 = .ok (.picOcw2Eoi .slave 0x20) ∧
    decode 0x18E10020 = .ok (.picOcw2Nop .master 0xC7) ∧
    decode 0x01610020 = .ok (.picOcw3 .master 0x0B) := by decide

theorem test_decode_pic_data :
    decode 0x24010021 = .ok (.picIcw2 .master 0x20) ∧
    decode 0x404100A1 = .ok (.picIcw3 .slave 0x02) ∧
    decode 0x60210021 = .ok (.picIcw4 .master 0x01) ∧
    decode 0x1F6100A1 = .ok (.picImrW .slave 0xFB) ∧
    decode 0x00000021 = .ok (.picDataR .master) ∧
    decode 0x000000A0 = .ok (.picCmdR .slave) ∧
    decode 0x06830020 = .ok (.picWide .master .command .output .w2 0x34) := by decide

theorem test_decode_nic_page0_writes :
    decode 0x08010301 = .ok (.nicPstartW 0x40) ∧
    decode 0x08210302 = .ok (.nicPstopW 0x41) ∧
    decode 0x08410303 = .ok (.nicBnryW 0x42) ∧
    decode 0x08610304 = .ok (.nicTpsrW 0x43) ∧
    decode 0x08810305 = .ok (.nicTbcr0W 0x44) ∧
    decode 0x08A10306 = .ok (.nicTbcr1W 0x45) ∧
    decode 0x08C10307 = .ok (.nicIsrW 0x46) ∧
    decode 0x08E10308 = .ok (.nicRsar0W 0x47) ∧
    decode 0x09010309 = .ok (.nicRsar1W 0x48) ∧
    decode 0x0921030A = .ok (.nicRbcr0W 0x49) ∧
    decode 0x0941030B = .ok (.nicRbcr1W 0x4A) ∧
    decode 0x0961030C = .ok (.nicRcrW 0x4B) ∧
    decode 0x0981030D = .ok (.nicTcrW 0x4C) ∧
    decode 0x09A1030E = .ok (.nicDcrW 0x4D) ∧
    decode 0x09C1030F = .ok (.nicImrW 0x4E) := by decide

theorem test_decode_nic_reads :
    decode 0x00180300 = .ok .nicCrR ∧
    decode 0x00000303 = .ok .nicBnryR ∧
    decode 0x00000307 = .ok .nicIsrR ∧
    decode 0x00080303 = .ok (.nicParR 2) ∧
    decode 0x00080307 = .ok .nicCurrR ∧
    decode 0x0008030F = .ok (.nicMarR 7) ∧
    decode 0x00100301 = .ok .nicPstartR ∧
    decode 0x00100302 = .ok .nicPstopR ∧
    decode 0x00100304 = .ok .nicTpsrR ∧
    decode 0x0010030C = .ok .nicRcrR ∧
    decode 0x0010030D = .ok .nicTcrR ∧
    decode 0x0010030E = .ok .nicDcrR ∧
    decode 0x0010030F = .ok .nicImrR := by decide

theorem test_decode_nic_control :
    decode 0x04210300 = .ok (.nicCrW 0x21) ∧
    decode 0x02490301 = .ok (.nicParW 0 0x12) ∧
    decode 0x0F890307 = .ok (.nicCurrW 0x7C) ∧
    decode 0x10090308 = .ok (.nicMarW 0 0x80) ∧
    decode 0x0811030F = .ok (.nicInvalid 0x0F 2 .output .w1 0x40) ∧
    decode 0x000C031E = .ok (.nicInvalid 0x1E 1 .input .w4 0) ∧
    decode 0x00020310 = .ok (.nicDataIn .w2) ∧
    decode 0x1DE30310 = .ok (.nicDataOut .w2 0xEF) ∧
    decode 0x00020307 = .ok (.nicBadwidth 0x07 .input .w2 0) ∧
    decode 0x00040310 = .ok (.nicBadwidth 0x10 .input .w4 0) ∧
    decode 0x1561031F = .ok (.nicResetW .w1 0xAB) ∧
    decode 0x001C031F = .ok (.nicResetR .w4) := by decide

theorem test_decode_bus_and_events :
    decode 0x0A0103F8 = .ok (.busExt 0x3F8 .output .w1 0x50) ∧
    decode 0x00020022 = .ok (.busUnmapped 0x22 .input .w2 0) ∧
    decode 0x8000000A = .ok (.picRaise 10) ∧
    decode 0x80100003 = .ok (.picLower 3) ∧
    decode 0x80200000 = .ok .picPending ∧
    decode 0x80300000 = .ok .picAck ∧
    decode 0x80400000 = .ok .nicRxPoll ∧
    decode 0x80500000 = .ok .nicRxDeliver ∧
    decode 0x80600000 = .ok .sysPowerOn := by decide

theorem test_decode_reserved :
    decode 0x00060020 = .error .widthCode ∧ decode 0x81000000 = .error .eventBits ∧
    decode 0x80010000 = .error .eventBits ∧ decode 0x80700000 = .error .eventCode ∧
    decode 0x80200001 = .error .eventArg := by decide

theorem test_encode_words :
    encode (.picIcw2 .master 0x20) = 0x24010021 ∧ encode .nicCurrR = 0x00080307 ∧
    encode (.nicInvalid 0x0F 2 .output .w1 0x40) = 0x0811030F ∧ encode (.picLower 3) = 0x80100003 := by decide

/-! ## Small states -/

/-- A NIC after a reset, with every register and twelve bytes of RAM given. -/
def nic : Nic where
  cr := 0x01
  isr := 0x80
  imr := 0x00
  dcr := 0x48
  tcr := 0x00
  rcr := 0x00
  pstart := 0x46
  pstop := 0x80
  bnry := 0x46
  curr := 0x46
  tpsr := 0x40
  tbcr0 := 0x3C
  tbcr1 := 0x00
  rsar0 := 0x00
  rsar1 := 0x00
  rbcr0 := 0x06
  rbcr1 := 0x00
  par := #v[0, 0, 0x12, 0, 0, 0]
  mar := #v[0, 0, 0, 0, 0, 0, 0, 0x80]
  ram := [(0, 0xAA), (1, 0xBB), (2, 0xCC), (3, 0xDD), (4, 0xEE), (5, 0xFF)]
  ramEpoch := 0
  dmaProgress := 0
  dmaArmed := false
  rxHeld := none

/-- A block with the NIC on line 10, offsets 0x20 and 0x28 and every line unmasked. -/
def base : State where
  params := ⟨10, 0x48, 0x20, 0x20, 0x08, 0x04, #v[0xAA, 0xBB, 0xCC, 0xDD, 0xEE, 0xFF]⟩
  bus := portMap
  master := { PicChip.reset with offset := 0x20 }
  slave := { PicChip.reset with offset := 0x28 }
  nic := nic
  d := []
  result := .done
  answers := ⟨.noPacket, true, false, true⟩
  hostWrites := []
  draws := 0
  agenda := []

/-- The state with the master's registers. -/
def withMaster (imr irr isr : Byte) (s : State) : State := { s with master := { s.master with imr, irr, isr } }

/-- The state with the slave's registers. -/
def withSlave (imr irr isr : Byte) (s : State) : State := { s with slave := { s.slave with imr, irr, isr } }

/-- The state with another NIC. -/
def withNic (n : Nic) (s : State) : State := { s with nic := n }

/-- A test of the next state of an outcome. -/
def next (o : Out) (p : State → Bool) : Bool :=
  match o with
  | .next t => p t
  | .fault _ => false
  | .refused _ => false

/-- The started NIC, armed. -/
def running : State := withNic { nic with cr := 0x0A, isr := 0x00, dmaArmed := true } base

/-- The started NIC of seed scenario 4, with a packet held. -/
def ring (packet : List Byte) : State := withNic { nic with cr := 0x22, isr := 0x00, curr := 0x7C, rxHeld := some packet } base

/-! ## Single steps: the values of the rules' examples -/

theorem test_icw1_example :
    next (exec (.picIcw1 .master 0x11) (withMaster 0xFF 0x00 0x01 base))
      (fun t => t.master = { PicChip.reset with counter := 1, needIcw4 := true, offset := 0x20 }) = true := by decide

theorem test_specific_eoi_example :
    next (exec (.picOcw2EoiSpec .master 0x62) (withSlave 0 0 0x04 (withMaster 0 0 0x05 base)))
      (fun t => t.master.isr = 0x01 && t.slave.isr = 0x00) = true := by decide

theorem test_nonspecific_eoi_example :
    next (exec (.picOcw2Eoi .master 0x20) (withSlave 0 0 0x04 (withMaster 0 0 0x0D base)))
      (fun t => t.master.isr = 0x0C && t.slave.isr = 0x04) = true := by decide

theorem test_ocw2_nop_example :
    next (exec (.picOcw2Nop .master 0xC7) (withMaster 0 0 0x80 base)) (fun t => t.master.isr = 0x80) = true := by decide

theorem test_ocw3_example :
    next (exec (.picOcw3 .slave 0x0B) base)
      (fun t => next (exec (.picCmdR .slave) (withSlave 0 0x01 0x40 t)) (fun u => u.d = [0x40])) = true := by decide

theorem test_icw2_example :
    next (exec (.picIcw2 .master 0x20) { base with master := { PicChip.reset with counter := 1, needIcw4 := true } })
      (fun t => t.master.offset = 0x20 && t.master.counter = 2) = true := by decide

theorem test_icw2_skips_icw3 :
    next (exec (.picIcw2 .slave 0x28) { base with slave := { PicChip.reset with counter := 1 } })
      (fun t => t.slave.counter = 0) = true := by decide

theorem test_icw3_icw4_example :
    next (exec (.picIcw3 .master 0x04) { base with master := { PicChip.reset with counter := 2, needIcw4 := true } })
      (fun t => t.master.counter = 3 &&
        next (exec (.picIcw4 .master 0x03) t) (fun u => u.master.aeoi && !u.master.sfnm && u.master.counter = 0)) = true := by
  decide

theorem test_mask_example :
    next (exec (.picImrW .master 0xFB) base)
      (fun t => next (exec (.picDataR .master) t) (fun u => u.d = [0xFB])) = true := by decide

theorem test_command_read_example :
    next (exec (.picCmdR .master) (withMaster 0 0x09 0 base)) (fun t => t.d = [0x09]) = true := by decide

theorem test_wide_example : exec (.picWide .master .command .input .w2 0) base = .fault .picWideAccess := rfl

theorem test_raise_example :
    next (exec (.picRaise 10) base) (fun t => t.slave.irr = 0x04 && t.master.irr = 0x04) = true := by decide

theorem test_raise_masked_cascade :
    next (exec (.picRaise 15) (withMaster 0x04 0 0 base)) (fun t => t.slave.irr = 0x80 && t.master.irr = 0x00) = true := by
  decide

theorem test_lower_example :
    next (exec (.picLower 9) (withSlave 0 0x06 0 (withMaster 0 0x04 0 base)))
      (fun t => t.slave.irr = 0x04 && t.master.irr = 0x00) = true := by decide

theorem test_pending_example :
    next (exec (.picRaise 2) base) (fun t => next (exec .picPending t) (fun u => u.result = .pending false)) = true := by
  decide

theorem test_ack_slave_example :
    next (exec .picAck (withSlave 0 0x04 0 (withMaster 0 0x04 0x09 base)))
      (fun t => t.result = .vector (some 0x2A) && t.master.isr = 0x0D && t.master.irr = 0 && t.slave.isr = 0x04) = true := by
  decide

theorem test_ack_order :
    next (exec .picAck (withSlave 0 0x01 0 (withMaster 0 0x84 0 base)))
      (fun t => t.result = .vector (some 0x27) && t.master.irr = 0x04) = true := by decide

theorem test_start_example :
    next (exec (.nicCrW 0x22) base) (fun t => t.nic.cr = 0x22 && t.nic.isr = 0x00) = true := by decide

theorem test_stop_with_start :
    next (exec (.nicCrW 0x07) (withNic { nic with imr := 0x80, isr := 0 } base))
      (fun t => t.nic.cr = 0x01 && t.nic.isr = 0x80 && t.slave.irr = 0x04 && t.hostWrites = []) = true := by decide

theorem test_transmit_short_frame :
    next (exec (.nicCrW 0x26) (withNic { nic with tbcr0 := 0x3B, imr := 0x08 } base))
      (fun t => t.nic.isr = 0x08 && t.nic.cr = 0x22 && t.hostWrites = [] && t.master.irr = 0x04) = true := by decide

theorem test_transmit_refused_by_host :
    next (exec (.nicCrW 0x26) { base with answers := ⟨.noPacket, false, false, true⟩ })
      (fun t => t.nic.isr = 0x08 && t.hostWrites.map (fun f => f.frame.length) = [60]) = true := by decide

theorem test_isr_write_example :
    next (exec (.nicIsrW 0x02) (withNic { nic with isr := 0x06 } base)) (fun t => t.nic.isr = 0x04) = true := by decide

theorem test_imr_write_example :
    next (exec (.nicImrW 0x01) (withNic { nic with isr := 0x01 } base))
      (fun t => t.nic.imr = 0x01 && t.slave.irr = 0x04) = true := by decide

theorem test_invalid_write_example :
    next (exec (.nicInvalid 0x01 2 .output .w1 0x10) base)
      (fun t => t.nic = { nic with isr := 0xA0 } && t.result = .ok) = true := by decide

theorem test_bad_width_example :
    next (exec (.nicBadwidth 0x07 .input .w2 0) base) (fun t => t.d.length = 2 && t.nic.isr = 0xA0) = true := by decide

theorem test_reset_example :
    next (exec (.nicResetW .w1 0xAB) (withNic { running.nic with curr := 0x50, imr := 0x40 } (withMaster 0 0x04 0 running)))
      (fun t => t.nic.cr = 0x01 && t.nic.isr = 0x80 && t.nic.imr = 0 && t.nic.curr = 0x46 && !t.nic.dmaArmed &&
        t.nic.ramByte 6 = 0xAA && t.master.irr = 0) = true := by decide

theorem test_register_reads :
    next (exec (.nicParR 2) base) (fun t => t.d = [0x12]) = true ∧
    next (exec (.nicMarR 7) base) (fun t => t.d = [0x80]) = true ∧
    next (exec .nicPstopR base) (fun t => t.d = [0x80]) = true := by decide

theorem test_data_in_last_byte :
    next (exec (.nicDataIn .w1) (withNic { running.nic with dmaProgress := 5 } running))
      (fun t => t.d = [0xFF] && t.nic.isr = 0x40 && t.nic.dmaProgress = 0 && t.nic.dmaArmed) = true := by decide

theorem test_data_out_word_example :
    next (exec (.nicDataOut .w2 0xEF)
        { withNic { running.nic with rsar1 := 0x40, rbcr0 := 2, dcr := 0x49 } running with d := [0xEF, 0xBE] })
      (fun t => t.nic.ramByte 0x4000 = 0xEF && t.nic.ramByte 0x4001 = 0xBE && t.nic.isr = 0x40) = true := by decide

theorem test_data_out_past_ram :
    next (exec (.nicDataOut .w2 0xEF)
        { withNic { running.nic with rsar1 := 0xFF, rsar0 := 0xFF, dcr := 0x49 } running with d := [0xEF, 0xBE] })
      (fun t => t.nic.ram = nic.ram && t.nic.isr = 0x08 && !t.nic.dmaArmed) = true := by decide

theorem test_data_in_not_armed : exec (.nicDataIn .w1) base = .fault .dataPortNotArmed := rfl

theorem test_poll_stopped :
    next (exec .nicRxPoll { base with answers := ⟨.packet [1], true, false, true⟩ }) (fun t => t.nic.rxHeld = none) = true := by
  decide

theorem test_poll_error :
    next (exec .nicRxPoll { running with answers := ⟨.error, true, false, true⟩ })
      (fun t => t.nic.rxHeld = none && t.nic.isr = 0x04) = true := by decide

theorem test_deliver_header :
    next (exec .nicRxDeliver (ring [1, 2, 3]))
      (fun t => (List.range 7).map (fun k => t.nic.ramByte (0x7C00 + k)) = [0x01, 0x7D, 0x07, 0x00, 1, 2, 3] &&
        t.nic.curr = 0x7D && t.nic.isr = 0x01 && t.nic.rxHeld = none) = true := by decide

theorem test_deliver_wraps_to_pstart :
    next (exec .nicRxDeliver (withNic { (ring [1, 2, 3]).nic with curr := 0x7F, bnry := 0x50 } (ring [1, 2, 3])))
      (fun t => t.nic.curr = 0x46 && t.nic.ramByte 0x7F01 = 0x46) = true := by decide

theorem test_ring_address_wraps :
    ({ nic with curr := 0x7F } : Nic).ringAddr 251 = 0x7FFF ∧ ({ nic with curr := 0x7F } : Nic).ringAddr 252 = 0x4600 := by
  decide

theorem test_deliver_overflow :
    next (exec .nicRxDeliver (withNic { (ring [1]).nic with bnry := 0x7D } (ring [1])))
      (fun t => t.nic.isr = 0x10 && t.nic.curr = 0x7C && t.nic.ram = nic.ram) = true := by decide

theorem test_deliver_ring_fault :
    exec .nicRxDeliver (withNic { (ring [1]).nic with curr := 0x80 } (ring [1])) = .fault .ringConfig := rfl

theorem test_external_and_unmapped :
    next (exec (.busExt 0x3F8 .output .w1 0x50) base) (fun t => t.result = .ok && t.nic = nic) = true ∧
    next (exec (.busUnmapped 0x80 .input .w1 0) base)
      (fun t => t.result = .error .unhandledPort && t.d.length = 1) = true := by decide

theorem test_power_on_example :
    next (exec .sysPowerOn (withMaster 0 0xFF 0xFF running))
      (fun t => t.nic.cr = 0x01 && t.nic.isr = 0x80 && t.nic.curr = 0x46 && t.nic.ramByte 0 = 0xAA &&
        t.nic.ramByte 6 = 0xAA && t.master = PicChip.reset && !picPendingAnswer t) = true := by decide

/-! ## Steps -/

theorem test_step_idles : step base = .next base := rfl

theorem test_step_runs_word :
    next (step (State.reset.withFetchWord 32 0x24010021))
      (fun t => t.master.offset = 0x20 && t.master.counter = 0 && t.agenda = []) = true := by decide

theorem test_step_reads_page_from_state :
    next (step ((withNic { nic with cr := 0x61 } base).withMove 0x00000307)) (fun t => t.d = [0x46]) = true := by decide

theorem test_step_refuses_reserved :
    step (base.withMove 0x80700000) = .refused (.reservedDescriptor .eventCode) := rfl

/-! ## Witnesses: the hypotheses of each statement can be met -/

/-- A move that brings the descriptor `x` with the host byte `b`. -/
def move (x : Descriptor) (b : Byte) : Move := ⟨x, ⟨b, 0, 0, 0⟩, base.answers⟩

theorem witness_DecodeEncodeRoundTrip :
    (Instr.nicInvalid 0x1E 3 .output .w4 0xFF).wf = true ∧ (Instr.picOcw2Nop .slave 0xC7).wf = true ∧
      (Instr.busUnmapped 0xFFFF .output .w4 1).wf = true := by decide

theorem witness_DecodedIsWellFormed : decode 0x00000080 = .ok (.busUnmapped 0x80 .input .w1 0) := by decide

theorem witness_RejectedIffReserved :
    decode 0x00060000 = .error .widthCode ∧ decode 0x80000001 = .ok (.picRaise 1) := by decide

theorem witness_CommandByteDecode :
    (∃ t, exec (.picOcw2EoiSpec .master 0x62) base = .next t) ∧ (∃ t, exec (.picOcw2Eoi .master 0x20) base = .next t) ∧
    (∃ t, exec (.picOcw2Nop .master 0x00) base = .next t) ∧ ∃ t, exec (.picOcw3 .slave 0x0B) base = .next t :=
  ⟨⟨_, rfl⟩, ⟨_, rfl⟩, ⟨_, rfl⟩, ⟨_, rfl⟩⟩

theorem witness_FilledDescriptor : (move 0x00010021 0xFB).x.getLsbD 31 = false := by decide

theorem witness_DecodeFollowsMode :
    (∃ s : State, s.bus = portMap ∧ s.agenda = [move 0x00010021 0xFB] ∧ s.master.counter = 0) ∧
    ((move 0x00010021 0xFB).x.getLsbD 31 = false ∧ (move 0x00010021 0xFB).x.extractLsb' 17 2 = 0 ∧
      (move 0x00010021 0xFB).x.getLsbD 16 = true ∧
      (move 0x00010021 0xFB).x.extractLsb' 0 16 = picPortNumber .master .data) ∧
    (move 0x00000307 0).x.getLsbD 31 = false ∧ (move 0x00000307 0).x.extractLsb' 17 2 = 0 ∧
      (move 0x00000307 0).x.getLsbD 16 = false ∧ (move 0x00000307 0).x.extractLsb' 0 16 = 0x307 :=
  ⟨⟨{ base with agenda := [move 0x00010021 0xFB] }, by decide⟩, by decide⟩

theorem witness_StepRunsDecoded :
    ∃ s : State, s.agenda = [move 0x80300000 0] ∧ decodeWith s.bus (fillDescriptor s (move 0x80300000 0)) = .ok .picAck :=
  ⟨{ base with agenda := [move 0x80300000 0] }, by decide⟩

theorem witness_IdleAndReservedMoves :
    base.agenda = [] ∧ ∃ s : State, s.agenda = [move 0x00060020 0] ∧
      decodeWith s.bus (fillDescriptor s (move 0x00060020 0)) = .error .widthCode :=
  ⟨rfl, { base with agenda := [move 0x00060020 0] }, by decide⟩

theorem witness_SpecificEoi : PicChip.reset.isr = 0 ∧ IsLowestSet 0x84 2 := by
  refine ⟨rfl, by decide, by decide, ?_⟩
  decide

theorem witness_NonspecificEoi :
    (base.chip .master).isr = 0 ∧ IsLowestSet ((withMaster 0 0 0x80 base).chip .master).isr 7 := by
  refine ⟨rfl, by decide, by decide, ?_⟩
  decide

/-- Line 7 of the master alone is requested. -/
theorem witness_AcknowledgeProcedure_master :
    (withMaster 0 0x84 0 base).master.Candidate 7 ∧
      ∀ k ∈ [0, 1, 3, 4, 5, 6, 7], k < 7 → ¬ (withMaster 0 0x84 0 base).master.Candidate k := by
  unfold PicChip.Candidate
  decide

/-- Line 7 of the slave alone is requested. -/
theorem witness_AcknowledgeProcedure_slave :
    (∀ i ∈ [0, 1, 3, 4, 5, 6, 7], ¬ (withSlave 0 0x80 0 (withMaster 0 0x04 0 base)).master.Candidate i) ∧
      (withSlave 0 0x80 0 (withMaster 0 0x04 0 base)).master.Candidate 2 ∧
      (withSlave 0 0x80 0 (withMaster 0 0x04 0 base)).slave.Candidate 7 ∧
      ∀ k, k < 7 → ¬ (withSlave 0 0x80 0 (withMaster 0 0x04 0 base)).slave.Candidate k := by
  unfold PicChip.Candidate
  decide

/-- The cascade line alone is requested, and slave line 0 is masked. -/
theorem witness_AcknowledgeProcedure_none :
    (∀ i ∈ [0, 1, 3, 4, 5, 6, 7], ¬ (withSlave 0x01 0x01 0 (withMaster 0 0x04 0 base)).master.Candidate i) ∧
      ∀ j, j < 8 → ¬ (withSlave 0x01 0x01 0 (withMaster 0 0x04 0 base)).slave.Candidate j := by
  unfold PicChip.Candidate
  decide

theorem witness_SlaveBlockedInService : (withMaster 0 0x04 0x04 base).master.isr.getLsbD 2 = true := by decide

theorem witness_LoneCascadeRaise :
    (∀ i ∈ [0, 1, 3, 4, 5, 6, 7], ¬ base.master.Candidate i) ∧ ∀ j, j < 8 → ¬ base.slave.Candidate j := by
  unfold PicChip.Candidate
  decide

/-- Both clauses, at lines 7, 8 and 15. -/
theorem witness_LineLowWhenIdle :
    (∃ t, exec (.nicIsrW 0xFF) base = .next t ∧ t.nic.isr &&& t.nic.imr = 0) ∧
    (∃ t, exec (.nicImrW 0x00) base = .next t ∧ t.nic.isr &&& t.nic.imr = 0) ∧
    (∃ p : Params, p.nicIrqLine = 7) ∧ (∃ p : Params, p.nicIrqLine = 8) ∧ ∃ p : Params, p.nicIrqLine = 15 :=
  ⟨⟨_, rfl, by decide⟩, ⟨_, rfl, by decide⟩, ⟨{ base.params with nicIrqLine := 7 }, rfl⟩,
    ⟨{ base.params with nicIrqLine := 8 }, rfl⟩, ⟨{ base.params with nicIrqLine := 15 }, rfl⟩⟩

theorem witness_OpenByteAccesses : base.nic.dcr.getLsbD 0 = false := by decide

theorem witness_StopCommand : (0x21#8).getLsbD 0 = true ∧ (0x03#8).getLsbD 0 = true := by decide

theorem witness_CommandWithoutStart : (0x20#8).getLsbD 0 = false ∧ (0x20#8).getLsbD 1 = false := by decide

theorem witness_StartCommand :
    (0x0A#8).getLsbD 0 = false ∧ (0x0A#8).getLsbD 1 = true ∧ (0x0A#8).getLsbD 2 = false := by decide

/-- A frame of 60 bytes at page 0x40, and one of 1514 bytes that ends below 65536. -/
theorem witness_TransmitSends :
    ((0x26#8).getLsbD 0 = false ∧ (0x26#8).getLsbD 1 = true ∧ (0x26#8).getLsbD 2 = true) ∧
    nic.tbcr1.toNat * 256 + nic.tbcr0.toNat = 60 ∧ nic.tpsr.toNat * 256 + 60 ≤ 65536 ∧
    ∃ n : Nic, n.tbcr1.toNat * 256 + n.tbcr0.toNat = 1514 ∧ n.tpsr.toNat * 256 + 1514 ≤ 65536 :=
  ⟨by decide, by decide, by decide, { nic with tbcr1 := 0x05, tbcr0 := 0xEA, tpsr := 0xFA }, by decide⟩

/-- A frame of 59 bytes, one of 1515 bytes, and one of 1281 bytes at page 0xFB. -/
theorem witness_TransmitFails :
    (∃ n : Nic, n.tbcr1.toNat * 256 + n.tbcr0.toNat = 59) ∧ (∃ n : Nic, n.tbcr1.toNat * 256 + n.tbcr0.toNat = 1515) ∧
    ∃ n : Nic, n.tpsr.toNat * 256 + (n.tbcr1.toNat * 256 + n.tbcr0.toNat) = 65537 :=
  ⟨⟨{ nic with tbcr0 := 0x3B }, by decide⟩, ⟨{ nic with tbcr1 := 0x05, tbcr0 := 0xEB }, by decide⟩,
    ⟨{ nic with tpsr := 0xFB, tbcr1 := 0x05, tbcr0 := 0x01 }, by decide⟩⟩

/-- An armed port at the last word of RAM, in word mode: for the read and the write. -/
theorem witness_DataPortRead :
    ∃ s : State, s.nic.dcr.getLsbD 0 = true ∧ s.nic.dmaArmed = true ∧
      s.nic.rsar1.toNat * 256 + s.nic.rsar0.toNat + s.nic.dmaProgress + widthBytes .w2 = 65536 :=
  ⟨withNic { running.nic with dcr := 0x49, rsar1 := 0xFF, rsar0 := 0xFE } running, by decide⟩

theorem witness_DataPortWrite :
    ∃ s : State, s.nic.dmaArmed = true ∧
      s.nic.rsar1.toNat * 256 + s.nic.rsar0.toNat + s.nic.dmaProgress + widthBytes .w1 = 65536 :=
  ⟨withNic { running.nic with rsar1 := 0xFF, rsar0 := 0xFF } running, by decide⟩

theorem witness_DataPortBoundsFailure :
    ∃ s : State, s.nic.dcr.getLsbD 0 = true ∧ s.nic.dmaArmed = true ∧
      s.nic.rsar1.toNat * 256 + s.nic.rsar0.toNat + s.nic.dmaProgress + widthBytes .w2 = 65537 :=
  ⟨withNic { running.nic with dcr := 0x49, rsar1 := 0xFF, rsar0 := 0xFF } running, by decide⟩

theorem witness_DataPortNotArmed :
    base.nic.dmaArmed = false ∧ (∃ t, exec (.nicResetW .w1 0) base = .next t) ∧
    ((0x22#8).getLsbD 0 = false ∧ (0x22#8).extractLsb' 3 3 = 0b100) ∧ (∃ t, exec (.nicCrW 0x22) base = .next t) ∧
    next (exec (.nicCrW 0x0A) base) (fun t => t.nic.dmaArmed) = true ∧
    next (exec (.nicDataIn .w1) (withNic { running.nic with rsar1 := 0xFF, rsar0 := 0xFF, dmaProgress := 1 } running))
      (fun t => !t.nic.dmaArmed && t.d = [0xFF]) = true :=
  ⟨rfl, ⟨_, rfl⟩, by decide, ⟨_, rfl⟩, by decide, by decide⟩

theorem witness_RxPollAnswers :
    ((ring [1]).nic.rxHeld ≠ none) ∧ (¬ (base.nic.cr.getLsbD 1 = true ∧ base.nic.cr.getLsbD 0 = false)) ∧
    running.nic.rxHeld = none ∧ running.nic.cr.getLsbD 1 = true ∧ running.nic.cr.getLsbD 0 = false := by decide

/-- Nothing held; a held packet and a stopped NIC with the recheck; a held packet of 1515 bytes. -/
theorem witness_RxDeliverWithoutStore :
    base.nic.rxHeld = none ∧
    (∃ s : State, s.nic.rxHeld = some [1] ∧ s.answers.rxRecheck = true ∧
      ¬ (s.nic.cr.getLsbD 1 = true ∧ s.nic.cr.getLsbD 0 = false)) ∧
    (ring (List.replicate 1515 0)).nic.rxHeld = some (List.replicate 1515 0) ∧
    (ring (List.replicate 1515 0)).answers.rxRecheck = false ∧ 1514 < (List.replicate 1515 (0 : Byte)).length :=
  ⟨rfl, ⟨{ withNic { nic with rxHeld := some [1] } base with answers := ⟨.noPacket, true, true, true⟩ }, by decide⟩, rfl,
    rfl, by rw [List.length_replicate]; decide⟩

/-- CURR at PSTOP. -/
theorem witness_RingConfigFault :
    ∃ s : State, s.nic.rxHeld = some [1] ∧ s.answers.rxRecheck = false ∧
      ¬ s.nic.curr.toNat < s.nic.pstop.toNat :=
  ⟨withNic { (ring [1]).nic with curr := 0x80 } (ring [1]), by decide⟩

/-- The next page after one page at CURR 0x7F is PSTART, where BNRY stands. -/
theorem witness_RingOverflow :
    ∃ s : State, s.nic.rxHeld = some [1] ∧ s.answers.rxRecheck = false ∧ s.nic.ringOk 1 = true ∧
      s.nic.ringNext 1 = s.nic.bnry.toNat ∧ s.nic.curr = 0x7F :=
  ⟨withNic { (ring [1]).nic with curr := 0x7F } (ring [1]), by decide⟩

/-- A packet of 1514 bytes takes six pages at CURR 0x7C and ends past PSTOP; an empty packet takes one page. -/
theorem witness_PacketStored :
    (ring (List.replicate 1514 0)).nic.rxHeld = some (List.replicate 1514 0) ∧
    (List.replicate 1514 (0 : Byte)).length ≤ 1514 ∧ (1514 + 4 + 255) / 256 = 6 ∧ (ring []).nic.ringOk 6 = true ∧
    (ring []).nic.ringNext 6 = 0x48 ∧ (ring []).nic.bnry = 0x46 ∧ (ring []).answers.rxRecheck = false ∧
    (ring []).nic.rxHeld = some [] ∧ (ring []).nic.ringOk 1 = true ∧ (ring []).nic.ringNext 1 = 0x7D :=
  ⟨rfl, by rw [List.length_replicate], by decide, by decide, by decide, by decide, by decide, by decide, by decide, by decide⟩

/-- A delivery that runs, moves CURR and ends in the ring. -/
theorem witness_DeliveryKeepsCurrInRing :
    next (exec .nicRxDeliver (ring [1])) (fun t => t.nic.curr ≠ (ring [1]).nic.curr) = true ∧
    (ring [1]).nic.pstart.toNat ≤ (ring [1]).nic.curr.toNat ∧ (ring [1]).nic.curr.toNat < (ring [1]).nic.pstop.toNat :=
  ⟨by decide, by decide⟩

/-- The same, for a packet of 253 bytes at the last page of the ring: its last byte is past PSTOP. -/
theorem witness_RingWrap :
    ∃ s : State, s.nic.rxHeld = some (List.replicate 253 0) ∧
      next (exec .nicRxDeliver s) (fun t => t.nic.curr ≠ s.nic.curr) = true ∧
      s.nic.pstop.toNat * 256 < s.nic.curr.toNat * 256 + 4 + 253 ∧
      s.nic.pstop.toNat * 256 - s.nic.curr.toNat * 256 - 4 + 0 < 253 :=
  ⟨withNic { (ring (List.replicate 253 0)).nic with curr := 0x7F } (ring (List.replicate 253 0)), rfl, by decide +kernel,
    by decide, by decide⟩

theorem witness_DeliveryIgnoresFilters :
    (∃ t, exec .nicRxDeliver (ring [1]) = .next t) ∧
    exec .nicRxDeliver (withNic { (ring [1]).nic with curr := 0x80 } (ring [1])) = .fault .ringConfig :=
  ⟨⟨_, rfl⟩, rfl⟩

theorem witness_BusTable : (∃ t, exec .picPending State.reset = .next t) ∧ State.reset.bus = State.reset.bus :=
  ⟨⟨_, rfl⟩, rfl⟩

/-- An EOI clears bit 0 of the master, and an acknowledgement sets it. -/
theorem witness_InServiceChanges :
    (∃ t, exec (.picOcw2Eoi .master 0x20) (withMaster 0 0 0x01 base) = .next t ∧ t.master.isr.getLsbD 0 = false) ∧
    ∃ t, exec .picAck (withMaster 0 0x01 0 base) = .next t ∧ t.master.isr.getLsbD 0 = true :=
  ⟨⟨_, rfl, by decide⟩, ⟨_, rfl, by decide⟩⟩

theorem witness_PicSetupChanges :
    (∃ t, exec (.picImrW .slave 0xFF) base = .next t ∧ (t.chip .slave).imr ≠ (base.chip .slave).imr) ∧
    (∃ t, exec (.picIcw2 .slave 0x70) base = .next t ∧ (t.chip .slave).offset ≠ (base.chip .slave).offset) ∧
    ∃ t, exec (.picOcw3 .master 0x0B) base = .next t ∧ (t.chip .master).readSel ≠ (base.chip .master).readSel :=
  ⟨⟨_, rfl, by decide⟩, ⟨_, rfl, by decide⟩, ⟨_, rfl, by decide⟩⟩

theorem witness_PartsKeepApart :
    (∃ t, exec .picAck base = .next t) ∧ (∃ t, exec (.nicImrW 0x80) base = .next t ∧ t.master.irr ≠ base.master.irr) ∧
    ∃ t, exec (.busUnmapped 0x80 .input .w4 0) base = .next t :=
  ⟨⟨_, rfl⟩, ⟨_, rfl, by decide⟩, ⟨_, rfl⟩⟩

theorem witness_NicStatusBitsFall :
    ∃ t, exec (.nicCrW 0x22) base = .next t ∧ base.nic.isr.getLsbD 7 = true ∧ t.nic.isr.getLsbD 7 = false :=
  ⟨_, rfl, by decide⟩

theorem witness_RamChanges :
    next (exec (.nicDataOut .w1 0x55) { running with d := [0x55] }) (fun t => t.nic.ramByte 0 ≠ running.nic.ramByte 0) = true := by
  decide

/-- Each of the three faults happens. -/
theorem witness_FaultsOnlyWhereSaid :
    exec (.picWide .slave .data .output .w4 1) base = .fault .picWideAccess ∧
    exec (.nicDataOut .w1 0) base = .fault .dataPortNotArmed ∧
    exec .nicRxDeliver (withNic { (ring [1]).nic with curr := 0x45 } (ring [1])) = .fault .ringConfig := ⟨rfl, rfl, rfl⟩

/-- A state with the invariant from which a step runs an instruction. -/
theorem witness_InvariantKept :
    (base.withMove 0x80300000).Inv ∧ ∃ t, step (base.withMove 0x80300000) = .next t := by
  refine ⟨⟨by decide, rfl, ⟨by decide, by decide⟩, by decide, ⟨by decide, by decide⟩, ⟨by decide, by decide⟩, ?_⟩, ⟨_, rfl⟩⟩
  intro f hf
  cases hf

end Sys2Proof.Tests
end

/-!
PROOFS. The scope of the block (00_scope.md): how a step takes its move, which instructions fault, and which part of the
block owns which state. The lemmas that say once what a faulting NIC instruction can do, and what each part's operations
keep of the others, stand before the statements they serve.
-/

namespace Sys2Proof.Machine

/-! ## One step (R8) -/

theorem step_of_idle {s : State} (h : s.agenda = []) : step s = .next s := by
  simp only [step, h]

theorem step_of_decoded {s : State} {m : Move} {rest : List Move} {i : Instr} (ha : s.agenda = m :: rest)
    (hd : decodeWith s.bus (fillDescriptor s m) = .ok i) : step s = exec i (s.beginMove m rest) := by
  simp only [step, ha, hd]

theorem step_of_reserved {s : State} {m : Move} {rest : List Move} {why : Reserved} (ha : s.agenda = m :: rest)
    (hd : decodeWith s.bus (fillDescriptor s m) = .error why) : step s = .refused (.reservedDescriptor why) := by
  simp only [step, ha, hd]

/-! ## What the instructions with several outcomes can do -/

theorem exec_picOcw2Eoi (c : Chip) (v : Byte) (s : State) : exec (.picOcw2Eoi c v) s = execPicOcw2Eoi c v s := rfl
theorem exec_nicDataIn (w : Width) (s : State) : exec (.nicDataIn w) s = execNicDataIn w s := rfl
theorem exec_nicDataOut (w : Width) (v : Byte) (s : State) : exec (.nicDataOut w v) s = execNicDataOut w v s := rfl
theorem exec_nicRxPoll (s : State) : exec .nicRxPoll s = execNicRxPoll s := rfl
theorem exec_nicRxDeliver (s : State) : exec .nicRxDeliver s = execNicRxDeliver s := rfl

/-- The four outcomes of a data-port IN, in the order of its checks (44_ne2000_cr_dma_tx.md R342, R346). -/
theorem exec_nicDataIn_cases (w : Width) (s : State) :
    (s.nic.dmaWidthOk w = false ∧ exec (.nicDataIn w) s = .next (badWidthAccess .input w s)) ∨
    (s.nic.dmaWidthOk w = true ∧ s.nic.dmaArmed = false ∧ exec (.nicDataIn w) s = .fault .dataPortNotArmed) ∨
    (s.nic.dmaWidthOk w = true ∧ s.nic.dmaArmed = true ∧ s.nic.dmaInRam w = true ∧
      exec (.nicDataIn w) s = .next (dmaAdvance w (s.reply (s.nic.memRead s.nic.dmaPos (widthBytes w))))) ∨
    (s.nic.dmaWidthOk w = true ∧ s.nic.dmaArmed = true ∧ s.nic.dmaInRam w = false ∧
      exec (.nicDataIn w) s = .next (dmaFail (s.reply (List.replicate (widthBytes w) 0xFF)))) := by
  rw [exec_nicDataIn]
  unfold execNicDataIn
  cases s.nic.dmaWidthOk w with
  | false => simp
  | true =>
    cases s.nic.dmaArmed with
    | false => simp
    | true => cases s.nic.dmaInRam w <;> simp

/-- The four outcomes of a data-port OUT, in the order of its checks (44_ne2000_cr_dma_tx.md R342, R347). -/
theorem exec_nicDataOut_cases (w : Width) (v : Byte) (s : State) :
    (s.nic.dmaWidthOk w = false ∧ exec (.nicDataOut w v) s = .next (badWidthAccess .output w s)) ∨
    (s.nic.dmaWidthOk w = true ∧ s.nic.dmaArmed = false ∧ exec (.nicDataOut w v) s = .fault .dataPortNotArmed) ∨
    (s.nic.dmaWidthOk w = true ∧ s.nic.dmaArmed = true ∧ s.nic.dmaInRam w = true ∧
      exec (.nicDataOut w v) s = .next (dmaAdvance w
        (({ s with nic := { s.nic with ram := s.nic.ram.writeRun s.nic.dmaPos (s.outBytes w v) } } : State).returning
          .ok))) ∨
    (s.nic.dmaWidthOk w = true ∧ s.nic.dmaArmed = true ∧ s.nic.dmaInRam w = false ∧
      exec (.nicDataOut w v) s = .next (dmaFail (s.returning .ok))) := by
  rw [exec_nicDataOut]
  unfold execNicDataOut
  cases s.nic.dmaWidthOk w with
  | false => simp
  | true =>
    cases s.nic.dmaArmed with
    | false => simp
    | true => cases s.nic.dmaInRam w <;> simp

/-- The three outcomes of a poll of the host (45_ne2000_rx.md R390, R391). -/
theorem exec_nicRxPoll_cases (s : State) :
    exec .nicRxPoll s = .next (s.returning .done) ∨
    (s.nic.rxHeld = none ∧ s.nic.started = true ∧ s.answers.hostRead = .error ∧
      exec .nicRxPoll s = .next ((report .hostRead s).returning .done)) ∨
    (∃ bytes, s.nic.rxHeld = none ∧ s.nic.started = true ∧ s.answers.hostRead = .packet bytes ∧
      exec .nicRxPoll s =
        .next (({ s with nic := { s.nic with rxHeld := some bytes } } : State).returning .done)) := by
  rw [exec_nicRxPoll]
  unfold execNicRxPoll
  cases s.nic.rxHeld with
  | some held => simp
  | none =>
    cases s.nic.started with
    | false => simp
    | true => cases s.answers.hostRead <;> simp

/-- A delivery with no packet held does nothing; a held packet leaves the slot, and is dropped or delivered
(45_ne2000_rx.md R393). -/
theorem exec_nicRxDeliver_cases (s : State) :
    (s.nic.rxHeld = none ∧ exec .nicRxDeliver s = .next (s.returning .done)) ∨
    (∃ packet, s.nic.rxHeld = some packet ∧ s.answers.rxRecheck = true ∧ s.nic.started = false ∧
      exec .nicRxDeliver s = .next (({ s with nic := { s.nic with rxHeld := none } } : State).returning .done)) ∨
    (∃ packet, s.nic.rxHeld = some packet ∧ (s.answers.rxRecheck = false ∨ s.nic.started = true) ∧
      exec .nicRxDeliver s =
        deliver packet (({ s with nic := { s.nic with rxHeld := none } } : State).returning .done)) := by
  rw [exec_nicRxDeliver]
  unfold execNicRxDeliver
  cases s.nic.rxHeld with
  | none => simp
  | some packet => cases s.answers.rxRecheck <;> cases s.nic.started <;> simp

/-- A non-specific EOI ends the service of the lowest set ISR bit, or does nothing (41_pic_ports.md R203). -/
theorem exec_picOcw2Eoi_cases (c : Chip) (v : Byte) (s : State) :
    (∃ i, lowestSet (s.chip c).isr = some i ∧
      exec (.picOcw2Eoi c v) s = .next ((picEndOfInterrupt c i s).returning .ok)) ∨
    (lowestSet (s.chip c).isr = none ∧ exec (.picOcw2Eoi c v) s = .next (s.returning .ok)) := by
  rw [exec_picOcw2Eoi]
  unfold execPicOcw2Eoi
  cases lowestSet (s.chip c).isr <;> simp

/-! ## Which instructions fault (R6) -/

/-- The reasons an instruction can fault with in state `s`: the `Unspecified` cases of R6. -/
inductive FaultReason (s : State) : Instr → Fault → Prop where
  /-- 41_pic_ports.md R212. -/
  | picWide (c : Chip) (p : PicPort) (d : Dir) (w : Width) (v : Byte) : FaultReason s (.picWide c p d w v) .picWideAccess
  /-- 44_ne2000_cr_dma_tx.md R344, on an IN. -/
  | dataIn (w : Width) (unarmed : s.nic.dmaArmed = false) : FaultReason s (.nicDataIn w) .dataPortNotArmed
  /-- 44_ne2000_cr_dma_tx.md R344, on an OUT. -/
  | dataOut (w : Width) (v : Byte) (unarmed : s.nic.dmaArmed = false) :
    FaultReason s (.nicDataOut w v) .dataPortNotArmed
  /-- 45_ne2000_rx.md R394. -/
  | ring (held : s.nic.rxHeld ≠ none) : FaultReason s .nicRxDeliver .ringConfig

/-- A delivery completes or faults with the ring configuration (45_ne2000_rx.md R394 to R397). -/
theorem deliver_next_or_ringConfig (packet : List Byte) (s : State) :
    (∃ t, deliver packet s = .next t) ∨ deliver packet s = .fault .ringConfig := by
  rcases deliver_cases packet s with ⟨_, e⟩ | ⟨_, _, e⟩ | ⟨_, _, _, e⟩ | ⟨_, _, _, e⟩
  · exact .inl ⟨_, e⟩
  · exact .inr e
  · exact .inl ⟨_, e⟩
  · exact .inl ⟨_, e⟩

/-- Every instruction completes, or faults for one of the reasons of R6; none is refused. -/
theorem exec_next_or_fault (i : Instr) (s : State) :
    (∃ t, exec i s = .next t) ∨ ∃ f, exec i s = .fault f ∧ FaultReason s i f := by
  cases i with
  | picWide c p d w v => exact .inr ⟨_, rfl, .picWide c p d w v⟩
  | picOcw2Eoi c v =>
    rcases exec_picOcw2Eoi_cases c v s with ⟨_, _, e⟩ | ⟨_, e⟩
    · exact .inl ⟨_, e⟩
    · exact .inl ⟨_, e⟩
  | nicDataIn w =>
    rcases exec_nicDataIn_cases w s with ⟨_, e⟩ | ⟨_, unarmed, e⟩ | ⟨_, _, _, e⟩ | ⟨_, _, _, e⟩
    · exact .inl ⟨_, e⟩
    · exact .inr ⟨_, e, .dataIn w unarmed⟩
    · exact .inl ⟨_, e⟩
    · exact .inl ⟨_, e⟩
  | nicDataOut w v =>
    rcases exec_nicDataOut_cases w v s with ⟨_, e⟩ | ⟨_, unarmed, e⟩ | ⟨_, _, _, e⟩ | ⟨_, _, _, e⟩
    · exact .inl ⟨_, e⟩
    · exact .inr ⟨_, e, .dataOut w v unarmed⟩
    · exact .inl ⟨_, e⟩
    · exact .inl ⟨_, e⟩
  | nicRxDeliver =>
    rcases exec_nicRxDeliver_cases s with ⟨_, e⟩ | ⟨_, _, _, _, e⟩ | ⟨packet, held, _, e⟩
    · exact .inl ⟨_, e⟩
    · exact .inl ⟨_, e⟩
    · rw [e]
      rcases deliver_next_or_ringConfig packet _ with next | fault
      · exact .inl next
      · exact .inr ⟨_, fault, .ring (by simp [held])⟩
  | _ => exact .inl ⟨_, rfl⟩

/-! ## What a PIC step keeps (R15) -/

/-- A PIC step keeps the parameters, the NIC, the BUS table and the frames handed to the host. -/
structure KeepsOutsidePic (s t : State) : Prop where
  params : t.params = s.params
  nic : t.nic = s.nic
  bus : t.bus = s.bus
  hostWrites : t.hostWrites = s.hostWrites

theorem KeepsOutsidePic.refl (s : State) : KeepsOutsidePic s s := ⟨rfl, rfl, rfl, rfl⟩

theorem KeepsOutsidePic.after_returning {s t : State} (h : KeepsOutsidePic s t) (r : StepResult) :
    KeepsOutsidePic s (t.returning r) := ⟨h.params, h.nic, h.bus, h.hostWrites⟩

theorem reply_keepsOutsidePic (s : State) (b : List Byte) : KeepsOutsidePic s (s.reply b) := ⟨rfl, rfl, rfl, rfl⟩

theorem withChip_keepsOutsidePic (s : State) (c : Chip) (p : PicChip) : KeepsOutsidePic s (s.withChip c p) := by
  constructor <;> simp

theorem picRaise_keepsOutsidePic (line : Nat) (s : State) : KeepsOutsidePic s (picRaise line s) := by
  constructor <;> simp

theorem picLower_keepsOutsidePic (line : Nat) (s : State) : KeepsOutsidePic s (picLower line s) := by
  constructor <;> simp

theorem acquireVector_keepsOutsidePic (s : State) : KeepsOutsidePic s (acquireVector s).2 := by
  constructor <;> simp

theorem picEndOfInterrupt_keepsOutsidePic (c : Chip) (i : Nat) (s : State) :
    KeepsOutsidePic s (picEndOfInterrupt c i s) := by
  constructor <;> simp

theorem exec_pic_keepsOutsidePic {i : Instr} {s t : State} (part : partOf i = .pic) (h : exec i s = .next t) :
    KeepsOutsidePic s t := by
  cases i with
  | picIcw1 c v | picOcw3 c v | picIcw2 c v | picIcw3 c v | picIcw4 c v | picImrW c v =>
    obtain rfl := Host.Outcome.next.inj h
    exact (withChip_keepsOutsidePic s c _).after_returning .ok
  | picOcw2EoiSpec c v =>
    obtain rfl := Host.Outcome.next.inj h
    exact (picEndOfInterrupt_keepsOutsidePic c _ s).after_returning .ok
  | picOcw2Eoi c v =>
    rcases exec_picOcw2Eoi_cases c v s with ⟨line, _, e⟩ | ⟨_, e⟩
    all_goals obtain rfl := Host.Outcome.next.inj (e.symm.trans h)
    · exact (picEndOfInterrupt_keepsOutsidePic c line s).after_returning .ok
    · exact (KeepsOutsidePic.refl s).after_returning .ok
  | picOcw2Nop c v =>
    obtain rfl := Host.Outcome.next.inj h
    exact (KeepsOutsidePic.refl s).after_returning .ok
  | picDataR c | picCmdR c =>
    obtain rfl := Host.Outcome.next.inj h
    exact reply_keepsOutsidePic s _
  | picWide c p d w v => cases h
  | picRaise line =>
    obtain rfl := Host.Outcome.next.inj h
    exact (picRaise_keepsOutsidePic _ s).after_returning .done
  | picLower line =>
    obtain rfl := Host.Outcome.next.inj h
    exact (picLower_keepsOutsidePic _ s).after_returning .done
  | picPending =>
    obtain rfl := Host.Outcome.next.inj h
    exact (KeepsOutsidePic.refl s).after_returning _
  | picAck =>
    obtain rfl := Host.Outcome.next.inj h
    exact (acquireVector_keepsOutsidePic s).after_returning _
  | _ => cases part

/-! ## What a NIC step keeps (R15, 42_pic_lines.md R251) -/

/-- A NIC step keeps the parameters and the BUS table, and of each PIC chip everything but IRR. -/
structure KeepsOutsideNic (s t : State) : Prop where
  params : t.params = s.params
  bus : t.bus = s.bus
  master : s.master.SameButIrr t.master
  slave : s.slave.SameButIrr t.slave

theorem PicChip.SameButIrr.trans {p q r : PicChip} (h : p.SameButIrr q) (k : q.SameButIrr r) : p.SameButIrr r := by
  unfold PicChip.SameButIrr at *
  rw [k, h]

theorem SameButRequests.keepsOutsideNic {s t : State} (h : SameButRequests s t) : KeepsOutsideNic s t where
  params := by rw [h]
  bus := by rw [h]
  master := h.master
  slave := h.slave

theorem KeepsOutsideNic.refl (s : State) : KeepsOutsideNic s s := (SameButRequests.refl s).keepsOutsideNic

theorem KeepsOutsideNic.trans {s t u : State} (h : KeepsOutsideNic s t) (k : KeepsOutsideNic t u) :
    KeepsOutsideNic s u where
  params := k.params.trans h.params
  bus := k.bus.trans h.bus
  master := h.master.trans k.master
  slave := h.slave.trans k.slave

section Closure
variable {s t : State} (h : KeepsOutsideNic s t)

include h

theorem KeepsOutsideNic.after_nic (n : Nic) : KeepsOutsideNic s { t with nic := n } :=
  ⟨h.params, h.bus, h.master, h.slave⟩

theorem KeepsOutsideNic.after_hostWrites (l : List HostWrite) : KeepsOutsideNic s { t with hostWrites := l } :=
  ⟨h.params, h.bus, h.master, h.slave⟩

theorem KeepsOutsideNic.after_returning (r : StepResult) : KeepsOutsideNic s (t.returning r) :=
  ⟨h.params, h.bus, h.master, h.slave⟩

theorem KeepsOutsideNic.after_reply (b : List Byte) : KeepsOutsideNic s (t.reply b) :=
  ⟨h.params, h.bus, h.master, h.slave⟩

theorem KeepsOutsideNic.after_drawReply (d : Dir) (w : Width) (r : StepResult) :
    KeepsOutsideNic s (t.drawReply d w r) := by
  cases d <;> exact ⟨h.params, h.bus, h.master, h.slave⟩

theorem KeepsOutsideNic.after_signal (b : Byte) : KeepsOutsideNic s (signal b t) :=
  (h.after_nic _).trans (signal_requests b t).keepsOutsideNic

theorem KeepsOutsideNic.after_report (k : NicErrKind) : KeepsOutsideNic s (report k t) := h.after_signal _

theorem KeepsOutsideNic.after_badWidthAccess (d : Dir) (w : Width) : KeepsOutsideNic s (badWidthAccess d w t) :=
  (h.after_drawReply d w .ok).after_report .badWidth

theorem KeepsOutsideNic.after_nicReset : KeepsOutsideNic s (nicReset t) :=
  (h.after_nic _).trans (nicReset_requests t).keepsOutsideNic

theorem KeepsOutsideNic.after_crStop : KeepsOutsideNic s (crStop t) := (h.after_signal isrRst).after_nic _

theorem KeepsOutsideNic.after_crStart : KeepsOutsideNic s (crStart t) :=
  (h.after_nic _).trans (lowerIfIdle_requests _).keepsOutsideNic

theorem KeepsOutsideNic.after_transmit : KeepsOutsideNic s (transmit t) := by
  rcases transmit_cases t with ⟨_, e⟩ | ⟨_, e⟩ <;> rw [e]
  · exact (h.after_hostWrites _).after_signal _
  · exact h.after_signal isrTxe

theorem KeepsOutsideNic.after_rdCommand (rd : BitVec 3) : KeepsOutsideNic s (rdCommand rd t) := by
  rcases rdCommand_cases rd t with e | e | e <;> rw [e]
  · exact h
  · exact h.after_nic _
  · exact h.after_nic _

theorem KeepsOutsideNic.after_dmaCompleteCheck : KeepsOutsideNic s (dmaCompleteCheck t) := by
  unfold dmaCompleteCheck
  split
  · exact (h.after_signal isrRdc).after_nic _
  · exact h

theorem KeepsOutsideNic.after_dmaAdvance (w : Width) : KeepsOutsideNic s (dmaAdvance w t) :=
  (h.after_nic _).after_dmaCompleteCheck

theorem KeepsOutsideNic.after_dmaFail : KeepsOutsideNic s (dmaFail t) := (h.after_report .dmaBounds).after_nic _

theorem KeepsOutsideNic.after_ringCommit (packet : List Byte) : KeepsOutsideNic s (ringCommit packet t) :=
  (h.after_nic _).after_signal isrPrx

theorem KeepsOutsideNic.after_deliver {packet : List Byte} {u : State} (hu : deliver packet t = .next u) :
    KeepsOutsideNic s u := by
  rcases deliver_cases packet t with ⟨_, e⟩ | ⟨_, _, e⟩ | ⟨_, _, _, e⟩ | ⟨_, _, _, e⟩ <;> rw [e] at hu <;> cases hu
  · exact h.after_signal isrRxe
  · exact h.after_signal isrOvw
  · exact h.after_ringCommit packet

end Closure

theorem crWrite_keepsOutsideNic (v : Byte) (s : State) : KeepsOutsideNic s (crWrite v s) :=
  crWrite_induct v s ((KeepsOutsideNic.refl s).after_nic _) (fun _ h => h.after_crStop) (fun _ h => h.after_crStart)
    (fun _ h => h.after_transmit) (fun _ h => h.after_rdCommand _)

theorem nicStore_keepsOutsideNic (n : Nic) (s : State) : KeepsOutsideNic s (nicStore n s) :=
  ((KeepsOutsideNic.refl s).after_nic n).after_returning .ok

theorem exec_nicDataIn_keepsOutsideNic {w : Width} {s t : State} (h : exec (.nicDataIn w) s = .next t) :
    KeepsOutsideNic s t := by
  rcases exec_nicDataIn_cases w s with ⟨_, e⟩ | ⟨_, _, e⟩ | ⟨_, _, _, e⟩ | ⟨_, _, _, e⟩ <;> rw [e] at h <;> cases h
  · exact (KeepsOutsideNic.refl s).after_badWidthAccess .input w
  · exact ((KeepsOutsideNic.refl s).after_reply _).after_dmaAdvance w
  · exact ((KeepsOutsideNic.refl s).after_reply _).after_dmaFail

theorem exec_nicDataOut_keepsOutsideNic {w : Width} {v : Byte} {s t : State}
    (h : exec (.nicDataOut w v) s = .next t) : KeepsOutsideNic s t := by
  rcases exec_nicDataOut_cases w v s with ⟨_, e⟩ | ⟨_, _, e⟩ | ⟨_, _, _, e⟩ | ⟨_, _, _, e⟩ <;> rw [e] at h <;> cases h
  · exact (KeepsOutsideNic.refl s).after_badWidthAccess .output w
  · exact (((KeepsOutsideNic.refl s).after_nic _).after_returning .ok).after_dmaAdvance w
  · exact ((KeepsOutsideNic.refl s).after_returning .ok).after_dmaFail

theorem exec_nicRxPoll_keepsOutsideNic {s t : State} (h : exec .nicRxPoll s = .next t) : KeepsOutsideNic s t := by
  rcases exec_nicRxPoll_cases s with e | ⟨_, _, _, e⟩ | ⟨_, _, _, _, e⟩ <;> rw [e] at h <;> cases h
  · exact (KeepsOutsideNic.refl s).after_returning .done
  · exact ((KeepsOutsideNic.refl s).after_report .hostRead).after_returning .done
  · exact ((KeepsOutsideNic.refl s).after_nic _).after_returning .done

theorem exec_nicRxDeliver_keepsOutsideNic {s t : State} (h : exec .nicRxDeliver s = .next t) :
    KeepsOutsideNic s t := by
  rcases exec_nicRxDeliver_cases s with ⟨_, e⟩ | ⟨_, _, _, _, e⟩ | ⟨packet, _, _, e⟩ <;> rw [e] at h
  · cases h
    exact (KeepsOutsideNic.refl s).after_returning .done
  · cases h
    exact ((KeepsOutsideNic.refl s).after_nic _).after_returning .done
  · exact (((KeepsOutsideNic.refl s).after_nic _).after_returning .done).after_deliver h

theorem exec_nic_keepsOutsideNic {i : Instr} {s t : State} (part : partOf i = .nic) (h : exec i s = .next t) :
    KeepsOutsideNic s t := by
  have same := KeepsOutsideNic.refl s
  cases i with
  | nicPstartW v | nicPstopW v | nicBnryW v | nicTpsrW v | nicTbcr0W v | nicTbcr1W v | nicRsar0W v | nicRsar1W v
  | nicRbcr0W v | nicRbcr1W v | nicRcrW v | nicTcrW v | nicDcrW v | nicParW k v | nicCurrW v | nicMarW k v =>
    obtain rfl := Host.Outcome.next.inj h
    exact nicStore_keepsOutsideNic _ s
  | nicCrR | nicBnryR | nicIsrR | nicParR k | nicCurrR | nicMarR k | nicPstartR | nicPstopR | nicTpsrR | nicRcrR
  | nicTcrR | nicDcrR | nicImrR =>
    obtain rfl := Host.Outcome.next.inj h
    exact same.after_reply _
  | nicCrW v =>
    obtain rfl := Host.Outcome.next.inj h
    exact (crWrite_keepsOutsideNic v s).after_returning .ok
  | nicIsrW v =>
    obtain rfl := Host.Outcome.next.inj h
    exact ((same.after_nic _).trans (lowerIfIdle_requests _).keepsOutsideNic).after_returning .ok
  | nicImrW v =>
    obtain rfl := Host.Outcome.next.inj h
    exact ((same.after_nic _).trans (irqFollow_requests _).keepsOutsideNic).after_returning .ok
  | nicInvalid o pg d w v =>
    obtain rfl := Host.Outcome.next.inj h
    exact (same.after_drawReply d w .ok).after_report .invalidRegister
  | nicBadwidth o d w v =>
    obtain rfl := Host.Outcome.next.inj h
    exact same.after_badWidthAccess d w
  | nicResetW w v =>
    obtain rfl := Host.Outcome.next.inj h
    exact same.after_nicReset.after_returning .ok
  | nicResetR w =>
    obtain rfl := Host.Outcome.next.inj h
    exact same.after_drawReply .input w .ok
  | nicDataIn w => exact exec_nicDataIn_keepsOutsideNic h
  | nicDataOut w v => exact exec_nicDataOut_keepsOutsideNic h
  | nicRxPoll => exact exec_nicRxPoll_keepsOutsideNic h
  | nicRxDeliver => exact exec_nicRxDeliver_keepsOutsideNic h
  | _ => cases part

/-! ## What a BUS access and power-on keep (R11, 40_iobus.md R181, R183) -/

/-- A drawn reply writes D, the result and the draw counter alone. -/
theorem drawReply_sameBlock (s : State) (d : Dir) (w : Width) (r : StepResult) : SameBlock s (s.drawReply d w r) :=
  ⟨s.drawReply_master d w r, s.drawReply_slave d w r, s.drawReply_nic d w r, s.drawReply_bus d w r,
    s.drawReply_params d w r⟩

theorem SameBlock.params {s t : State} (h : SameBlock s t) : t.params = s.params := by
  obtain ⟨_, _, _, _, params⟩ := h
  exact params

theorem exec_bus_sameBlock {i : Instr} {s t : State} (part : partOf i = .bus) (h : exec i s = .next t) :
    SameBlock s t ∧ t.hostWrites = s.hostWrites := by
  cases i with
  | busExt port d w v | busUnmapped port d w v =>
    obtain rfl := Host.Outcome.next.inj h
    exact ⟨drawReply_sameBlock s d w _, s.drawReply_hostWrites d w _⟩
  | _ => cases part

theorem powerOn_params (s : State) : (powerOn s).params = s.params := by
  simp [powerOn, nicReset]

theorem exec_construction_params {i : Instr} {s t : State} (part : partOf i = .construction)
    (h : exec i s = .next t) : t.params = s.params := by
  cases i with
  | sysPowerOn =>
    obtain rfl := Host.Outcome.next.inj h
    exact powerOn_params s
  | _ => cases part

/-! ## The statements -/

/-- Settles O8: the record the statement writes out is `State.beginMove`. -/
theorem stepRunsDecoded : Obligations.StepRunsDecoded := fun _ _ _ _ => step_of_decoded

/-- Settles O9, a clause for each of the two ways a step runs no instruction. -/
theorem idleAndReservedMoves : Obligations.IdleAndReservedMoves :=
  ⟨fun _ => step_of_idle, fun _ _ _ _ => step_of_reserved⟩

/-- Settles O58, from the inversion of `exec`: an instruction completes or has one of the four reasons. -/
theorem faultsOnlyWhereSaid : Obligations.FaultsOnlyWhereSaid := by
  intro i s
  rcases exec_next_or_fault i s with ⟨t, e⟩ | ⟨f, e, reason⟩
  · rw [e]
    exact ⟨nofun, nofun⟩
  · rw [e]
    refine ⟨nofun, fun g hg => ?_⟩
    cases hg
    cases reason with
    | picWide c p d w v => exact .inl ⟨rfl, c, p, d, w, v, rfl⟩
    | dataIn w unarmed => exact .inr (.inl ⟨rfl, unarmed, .inl ⟨w, rfl⟩⟩)
    | dataOut w v unarmed => exact .inr (.inl ⟨rfl, unarmed, .inr ⟨w, v, rfl⟩⟩)
    | ring held => exact .inr (.inr ⟨rfl, rfl, held⟩)

/-- Settles O55, one case for each part of the block. -/
theorem partsKeepApart : Obligations.PartsKeepApart := by
  intro i s t h
  cases part : partOf i with
  | pic =>
    have kept := exec_pic_keepsOutsidePic part h
    exact ⟨kept.params, fun _ => ⟨kept.nic, kept.bus, kept.hostWrites⟩, nofun, nofun⟩
  | nic =>
    have kept := exec_nic_keepsOutsideNic part h
    exact ⟨kept.params, nofun, fun _ => ⟨kept.master, kept.slave, kept.bus⟩, nofun⟩
  | bus =>
    obtain ⟨kept, frames⟩ := exec_bus_sameBlock part h
    exact ⟨kept.params, nofun, nofun, fun _ => ⟨kept, frames⟩⟩
  | construction => exact ⟨exec_construction_params part h, nofun, nofun, nofun⟩

end Sys2Proof.Machine

/-!
PROOFS. The state of the block (10_state.md): its values after power-on, the place where decoding reads it, and which
instructions change which part of it. Two inversions of `exec`, one for a PIC chip and one for the NIC, say once what an
instruction can do there; the statements about in-service bits, the PIC's setup registers, NIC.ISR and the invariant of
the block are read off them.
-/

namespace Sys2Proof.Machine

/-! ## What an instruction can do to a PIC chip (10_state.md R30 to R37) -/

@[simp] theorem State.chip_returning (s : State) (r : StepResult) (c : Chip) : (s.returning r).chip c = s.chip c := by
  cases c <;> rfl

@[simp] theorem State.chip_reply (s : State) (b : List Byte) (c : Chip) : (s.reply b).chip c = s.chip c := by
  cases c <;> rfl

theorem State.chip_withChip_of_ne (s : State) {a c : Chip} (h : a ≠ c) (p : PicChip) :
    (s.withChip a p).chip c = s.chip c := by
  cases a <;> cases c
  · exact absurd rfl h
  · rfl
  · rfl
  · exact absurd rfl h

theorem SameButRequests.chip {s t : State} (h : SameButRequests s t) (c : Chip) : (s.chip c).SameButIrr (t.chip c) := by
  cases c
  · exact h.master
  · exact h.slave

theorem KeepsOutsideNic.chip {s t : State} (h : KeepsOutsideNic s t) (c : Chip) : (s.chip c).SameButIrr (t.chip c) := by
  cases c
  · exact h.master
  · exact h.slave

theorem SameBlock.chip {s t : State} (h : SameBlock s t) (c : Chip) : t.chip c = s.chip c := by
  obtain ⟨master, slave, _, _, _⟩ := h
  cases c
  · exact master
  · exact slave

/-- `ChipStep c p i q`: instruction `i` may take chip `c` from `p` to `q`. Every instruction may write IRR; each that writes
more has its constructor. -/
inductive ChipStep (c : Chip) (p : PicChip) : Instr → PicChip → Prop where
  /-- 42_pic_lines.md R251. -/
  | requests (i : Instr) (irr : Byte) : ChipStep c p i { p with irr := irr }
  /-- 41_pic_ports.md R200. -/
  | icw1 (v : Byte) : ChipStep c p (.picIcw1 c v) (p.icw1 v)
  /-- 41_pic_ports.md R206. -/
  | icw2 (v : Byte) : ChipStep c p (.picIcw2 c v) { p with offset := v, counter := p.counterAfterIcw2 }
  /-- 41_pic_ports.md R207. -/
  | icw3 (v : Byte) : ChipStep c p (.picIcw3 c v) { p with counter := if p.needIcw4 then 3 else 0 }
  /-- 41_pic_ports.md R208. -/
  | icw4 (v : Byte) :
    ChipStep c p (.picIcw4 c v) { p with aeoi := v.getLsbD 1, sfnm := v.getLsbD 4, counter := 0 }
  /-- 41_pic_ports.md R209. -/
  | imrW (v : Byte) : ChipStep c p (.picImrW c v) { p with imr := v }
  /-- 41_pic_ports.md R205. -/
  | ocw3 (v : Byte) : ChipStep c p (.picOcw3 c v) (p.ocw3 v)
  /-- 41_pic_ports.md R202, R203, R213: to the chip itself, or forwarded by the master. -/
  | eoi (i : Instr) (a : Chip) (v : Byte) (line : Nat) (command : i = .picOcw2EoiSpec a v ∨ i = .picOcw2Eoi a v)
    (reach : a = c ∨ a = .master) : ChipStep c p i (p.endService line)
  /-- 42_pic_lines.md R246: an acknowledgement ends no service. -/
  | ack (irr isr : Byte) (serving : ∀ k, p.isr.getLsbD k = true → isr.getLsbD k = true) :
    ChipStep c p .picAck { p with irr := irr, isr := isr }
  /-- 70_reset_and_hazards.md R470; IRR is left open because the NIC reset in it lowers a line. -/
  | powerOn (irr : Byte) : ChipStep c p .sysPowerOn { PicChip.reset with irr := irr }

theorem ChipStep.keep (c : Chip) (p : PicChip) (i : Instr) : ChipStep c p i p := .requests i p.irr

theorem ChipStep.of_sameButIrr {c : Chip} {p q : PicChip} (i : Instr) (h : p.SameButIrr q) : ChipStep c p i q := by
  rw [h]
  exact .requests i q.irr

/-- An instruction that writes chip `a` alone steps every chip if it steps `a`. -/
theorem ChipStep.withChip {a : Chip} {s : State} {i : Instr} {q : PicChip} (h : ChipStep a (s.chip a) i q) (c : Chip) :
    ChipStep c (s.chip c) i ((s.withChip a q).chip c) := by
  by_cases e : a = c
  · subst e
    rwa [State.chip_withChip]
  · rw [State.chip_withChip_of_ne s e]
    exact .keep c _ i

/-- A non-specific EOI ends one service or does nothing. -/
theorem PicChip.nonspecificEoi_endService (p : PicChip) :
    p.nonspecificEoi = p ∨ ∃ line, p.nonspecificEoi = p.endService line := by
  rcases p.nonspecificEoi_cases with ⟨_, e⟩ | ⟨line, _, e⟩
  · exact .inl e
  · exact .inr ⟨line, e⟩

/-- An EOI on chip `a` leaves a chip alone or ends one service on it: on `a` itself, or forwarded by the master
(41_pic_ports.md R202, R213). -/
theorem picEndOfInterrupt_chip (a : Chip) (i : Nat) (s : State) (c : Chip) :
    (picEndOfInterrupt a i s).chip c = s.chip c ∨
      (a = c ∨ a = .master) ∧ ∃ line, (picEndOfInterrupt a i s).chip c = (s.chip c).endService line := by
  rcases picEndOfInterrupt_cases a i s with ⟨ha, _, e⟩ | ⟨ha, _, e⟩ | ⟨ha, e⟩ <;> rw [e] <;> cases c
  · exact .inr ⟨.inr ha, 2, rfl⟩
  · rcases s.slave.nonspecificEoi_endService with h | ⟨line, h⟩
    · exact .inl h
    · exact .inr ⟨.inr ha, line, h⟩
  · exact .inr ⟨.inr ha, i, rfl⟩
  · exact .inl rfl
  · exact .inl rfl
  · exact .inr ⟨.inl ha, i, rfl⟩

/-- Serving a line keeps every in-service bit (42_pic_lines.md R246). -/
theorem serving_keeps_isr (aeoi : Bool) (isr line : Byte) (k : Nat) (h : isr.getLsbD k = true) :
    (if aeoi then isr else isr ||| line).getLsbD k = true := by
  cases aeoi <;> simp [h]

/-- An acknowledgement writes IRR and ISR of a chip, and ends no service (42_pic_lines.md R246). -/
theorem acquireVector_chip (s : State) (c : Chip) :
    ∃ irr isr : Byte, (acquireVector s).2.chip c = { s.chip c with irr := irr, isr := isr } ∧
      ∀ k, (s.chip c).isr.getLsbD k = true → isr.getLsbD k = true := by
  rcases acquireVector_cases s with ⟨i, _, e⟩ | ⟨j, _, _, _, e⟩ | ⟨_, _, e⟩ <;> rw [e] <;> cases c
  · exact ⟨_, _, s.master.acknowledge_eq i, serving_keeps_isr _ _ _⟩
  · exact ⟨_, _, rfl, fun _ h => h⟩
  · exact ⟨_, _, s.master.acknowledgeCascade_eq _, serving_keeps_isr _ _ _⟩
  · exact ⟨_, _, s.slave.acknowledge_eq j, serving_keeps_isr _ _ _⟩
  · exact ⟨_, _, rfl, fun _ h => h⟩
  · exact ⟨_, _, rfl, fun _ h => h⟩

/-- Power-on leaves each chip at its reset values but for what the NIC reset does to IRR. -/
theorem powerOn_chip (s : State) (c : Chip) : PicChip.reset.SameButIrr ((powerOn s).chip c) := by
  have lowered := (nicReset_requests
    { s with bus := portMap, master := PicChip.reset, slave := PicChip.reset, nic := s.nic.drawn s.draws }).chip c
  cases c <;> exact lowered

theorem exec_pic_chipStep {i : Instr} {s t : State} (part : partOf i = .pic) (h : exec i s = .next t) (c : Chip) :
    ChipStep c (s.chip c) i (t.chip c) := by
  cases i with
  | picIcw1 a v =>
    obtain rfl := Host.Outcome.next.inj h
    exact (ChipStep.icw1 v).withChip c
  | picOcw2EoiSpec a v =>
    obtain rfl := Host.Outcome.next.inj h
    rw [State.chip_returning]
    rcases picEndOfInterrupt_chip a (v.extractLsb' 0 3).toNat s c with e | ⟨reach, line, e⟩ <;> rw [e]
    · exact .keep c _ _
    · exact .eoi _ a v line (.inl rfl) reach
  | picOcw2Eoi a v =>
    rcases exec_picOcw2Eoi_cases a v s with ⟨target, _, e⟩ | ⟨_, e⟩
    all_goals
      obtain rfl := Host.Outcome.next.inj (e.symm.trans h)
      rw [State.chip_returning]
    · rcases picEndOfInterrupt_chip a target s c with e | ⟨reach, line, e⟩ <;> rw [e]
      · exact .keep c _ _
      · exact .eoi _ a v line (.inr rfl) reach
    · exact .keep c _ _
  | picOcw3 a v =>
    obtain rfl := Host.Outcome.next.inj h
    exact (ChipStep.ocw3 v).withChip c
  | picIcw2 a v =>
    obtain rfl := Host.Outcome.next.inj h
    exact (ChipStep.icw2 v).withChip c
  | picIcw3 a v =>
    obtain rfl := Host.Outcome.next.inj h
    exact (ChipStep.icw3 v).withChip c
  | picIcw4 a v =>
    obtain rfl := Host.Outcome.next.inj h
    exact (ChipStep.icw4 v).withChip c
  | picImrW a v =>
    obtain rfl := Host.Outcome.next.inj h
    exact (ChipStep.imrW v).withChip c
  | picOcw2Nop _ _ | picPending =>
    obtain rfl := Host.Outcome.next.inj h
    rw [State.chip_returning]
    exact .keep c _ _
  | picDataR _ | picCmdR _ =>
    obtain rfl := Host.Outcome.next.inj h
    rw [State.chip_reply]
    exact .keep c _ _
  | picWide a p d w v => cases h
  | picRaise line =>
    obtain rfl := Host.Outcome.next.inj h
    rw [State.chip_returning]
    exact .of_sameButIrr _ ((picRaise_requests _ s).chip c)
  | picLower line =>
    obtain rfl := Host.Outcome.next.inj h
    rw [State.chip_returning]
    exact .of_sameButIrr _ ((picLower_requests _ s).chip c)
  | picAck =>
    obtain rfl := Host.Outcome.next.inj h
    obtain ⟨irr, isr, e, serving⟩ := acquireVector_chip s c
    rw [State.chip_returning, e]
    exact .ack irr isr serving
  | _ => cases part

/-- The inversion of `exec` for a PIC chip. -/
theorem exec_chipStep {i : Instr} {s t : State} (h : exec i s = .next t) (c : Chip) :
    ChipStep c (s.chip c) i (t.chip c) := by
  cases part : partOf i with
  | pic => exact exec_pic_chipStep part h c
  | nic => exact .of_sameButIrr i ((exec_nic_keepsOutsideNic part h).chip c)
  | bus =>
    rw [(exec_bus_sameBlock part h).1.chip c]
    exact .keep c _ i
  | construction =>
    cases i with
    | sysPowerOn =>
      obtain rfl := Host.Outcome.next.inj h
      rw [State.chip_returning, powerOn_chip s c]
      exact .powerOn _
    | _ => cases part

/-- Every instruction keeps the counter one that the mode flags allow (41_pic_ports.md R200, R206 to R208). -/
theorem ChipStep.counterOk {c : Chip} {p q : PicChip} {i : Instr} (h : ChipStep c p i q) (ok : p.CounterOk) :
    q.CounterOk := by
  cases h with
  | requests | imrW | eoi | ack => exact ok
  | ocw3 v => simpa [PicChip.CounterOk] using ok
  | icw1 | icw4 | powerOn => exact ⟨nofun, nofun⟩
  | icw2 v =>
    cases single : p.single <;> cases need : p.needIcw4 <;>
      simp [PicChip.CounterOk, PicChip.counterAfterIcw2, single, need]
  | icw3 v => cases need : p.needIcw4 with
    | true => exact ⟨nofun, fun _ => rfl⟩
    | false => exact ⟨nofun, nofun⟩

/-! ## What an instruction can do to the NIC (10_state.md R40, R41, R51, R52) -/

/-- What a step keeps of the NIC: the parts of the invariant that speak of it and of its frames, and every ISR bit but
those in `lost`. -/
structure KeepsNic (lost : Byte) (s t : State) : Prop where
  cr : s.nic.CrOk → t.nic.CrOk
  ram : s.nic.ram.wf → t.nic.ram.wf
  progress : s.nic.dmaProgress < 65535 → t.nic.dmaProgress < 65535
  frames : s.FramesOk → t.FramesOk
  status : ∀ k, s.nic.isr.getLsbD k = true → t.nic.isr.getLsbD k = true ∨ lost.getLsbD k = true

theorem KeepsNic.trans {lost : Byte} {s t u : State} (h : KeepsNic lost s t) (k : KeepsNic lost t u) :
    KeepsNic lost s u where
  cr := k.cr ∘ h.cr
  ram := k.ram ∘ h.ram
  progress := k.progress ∘ h.progress
  frames := k.frames ∘ h.frames
  status i hi := (h.status i hi).elim (k.status i) .inr

/-- A further step that is taken under a condition only. -/
theorem KeepsNic.optional {lost : Byte} {s t u : State} (h : KeepsNic lost s t) (c : Bool)
    (k : c = true → KeepsNic lost t u) : KeepsNic lost s (if c = true then u else t) := by
  cases c
  · exact h
  · exact h.trans (k rfl)

/-- A step that writes none of these fields keeps them. -/
theorem KeepsNic.of_fields_eq (lost : Byte) {s t : State} (cr : t.nic.cr = s.nic.cr) (isr : t.nic.isr = s.nic.isr)
    (ram : t.nic.ram = s.nic.ram) (progress : t.nic.dmaProgress = s.nic.dmaProgress)
    (frames : t.hostWrites = s.hostWrites) : KeepsNic lost s t where
  cr := by simp [Nic.CrOk, cr]
  ram := by simp [ram]
  progress := by simp [progress]
  frames := by simp [State.FramesOk, frames]
  status k hk := .inl (isr ▸ hk)

theorem KeepsNic.of_nic_eq (lost : Byte) {s t : State} (nic : t.nic = s.nic) (frames : t.hostWrites = s.hostWrites) :
    KeepsNic lost s t :=
  .of_fields_eq lost (by rw [nic]) (by rw [nic]) (by rw [nic]) (by rw [nic]) frames

theorem KeepsNic.refl (lost : Byte) (s : State) : KeepsNic lost s s := .of_nic_eq lost rfl rfl

/-- The calls of the PIC's lines reach nothing of the NIC (00_scope.md R15). -/
theorem SameButRequests.keepsNic (lost : Byte) {s t : State} (h : SameButRequests s t) : KeepsNic lost s t :=
  .of_nic_eq lost h.nic (by rw [h])

/-- Clearing ISR bits loses those and no other. -/
theorem clearIsr_keepsNic (bits : Byte) (s : State) :
    KeepsNic bits s { s with nic := { s.nic with isr := s.nic.isr &&& ~~~bits } } where
  cr := id
  ram := id
  progress := id
  frames := id
  status k hk := by
    cases cleared : bits.getLsbD k with
    | true => exact .inr rfl
    | false =>
      left
      rw [BitVec.getLsbD_and, BitVec.getLsbD_not, hk, cleared, decide_eq_true (BitVec.lt_of_getLsbD hk)]
      rfl

/-- Setting the progress counter to a value below the largest count. -/
theorem setProgress_keepsNic (lost : Byte) (s : State) {n : Nat} (h : n < 65535) :
    KeepsNic lost s { s with nic := { s.nic with dmaProgress := n } } :=
  ⟨id, id, fun _ => h, id, fun _ => .inl⟩

/-- Storing into RAM, with or without a new CURR. -/
theorem store_keepsNic (lost : Byte) (s : State) {ram : Memory} (curr : Byte) (h : s.nic.ram.wf → ram.wf) :
    KeepsNic lost s { s with nic := { s.nic with ram := ram, curr := curr } } :=
  ⟨id, h, id, id, fun _ => .inl⟩

section Operations
variable (lost : Byte) (s : State)

theorem returning_keepsNic (r : StepResult) : KeepsNic lost s (s.returning r) := .of_nic_eq lost rfl rfl

theorem reply_keepsNic (b : List Byte) : KeepsNic lost s (s.reply b) := .of_nic_eq lost rfl rfl

theorem useDraws_keepsNic (n : Nat) : KeepsNic lost s (s.useDraws n) := .of_nic_eq lost rfl rfl

theorem drawReply_keepsNic (d : Dir) (w : Width) (r : StepResult) : KeepsNic lost s (s.drawReply d w r) :=
  .of_nic_eq lost (s.drawReply_nic d w r) (s.drawReply_hostWrites d w r)

theorem signal_keepsNic (b : Byte) : KeepsNic lost s (signal b s) where
  cr := by simp [Nic.CrOk]
  ram := by simp
  progress := by simp
  frames := by simp [State.FramesOk]
  status k hk := .inl (by simp [hk])

theorem report_keepsNic (k : NicErrKind) : KeepsNic lost s (report k s) := signal_keepsNic lost s _

theorem badWidthAccess_keepsNic (d : Dir) (w : Width) : KeepsNic lost s (badWidthAccess d w s) :=
  (drawReply_keepsNic lost s d w .ok).trans (report_keepsNic lost _ .badWidth)

/-- A NIC reset may lose any ISR bit, and brings CR, RAM and the progress counter into form (70_reset_and_hazards.md
R471, R472). -/
theorem nicReset_keepsNic : KeepsNic (BitVec.allOnes 8) s (nicReset s) where
  cr _ := by simp [Nic.CrOk, Nic.afterReset]
  ram h := by simpa using Nic.afterReset_ram_wf s.params h
  progress _ := by simp [Nic.afterReset]
  frames := by simp [State.FramesOk, nicReset]
  status k hk := .inr (BitVec.getLsbD_allOnes.trans (decide_eq_true (BitVec.lt_of_getLsbD hk)))

/-! ### Command register and transmit (44_ne2000_cr_dma_tx.md R340, R341, R350) -/

theorem setCr_keepsNic (v : Byte) : KeepsNic lost s { s with nic := { s.nic with cr := crAfter v } } :=
  ⟨fun _ => crAfter_ok v, id, id, id, fun _ => .inl⟩

theorem crStop_keepsNic : KeepsNic lost s (crStop s) :=
  (signal_keepsNic lost s isrRst).trans (setProgress_keepsNic lost _ (by decide))

theorem crStart_keepsNic : KeepsNic isrRst s (crStart s) :=
  (clearIsr_keepsNic isrRst s).trans ((lowerIfIdle_requests _).keepsNic isrRst)

/-- A frame of a legal length is handed to the host (R350). -/
theorem handFrame_keepsNic (ok : Bool) (h : s.nic.txFits = true) :
    KeepsNic lost s { s with hostWrites := s.hostWrites ++ [⟨s.nic.txFrame, ok⟩] } where
  cr := id
  ram := id
  progress := id
  frames legal w hw := by
    rcases List.mem_append.mp hw with old | new
    · exact legal w old
    · rw [List.mem_singleton.mp new]
      exact Nic.txFrame_length h
  status _ := .inl

theorem transmit_keepsNic : KeepsNic lost s (transmit s) := by
  rcases transmit_cases s with ⟨fits, e⟩ | ⟨_, e⟩ <;> rw [e]
  · exact (handFrame_keepsNic lost s _ fits).trans (signal_keepsNic lost _ _)
  · exact signal_keepsNic lost s isrTxe

theorem rdCommand_keepsNic (rd : BitVec 3) : KeepsNic lost s (rdCommand rd s) := by
  rcases rdCommand_cases rd s with e | e | e <;> rw [e]
  · exact .refl lost s
  · exact (setProgress_keepsNic lost s (n := 0) (by decide)).trans (.of_fields_eq lost rfl rfl rfl rfl rfl)
  · exact .of_fields_eq lost rfl rfl rfl rfl rfl

/-- The ISR bits a CR write of `v` may clear: RST, by a START (R340 step 3). -/
def crLost (v : Byte) : Byte := if v.getLsbD 1 && !v.getLsbD 0 then isrRst else 0

theorem crLost_bit {v : Byte} {k : Nat} (h : (crLost v).getLsbD k = true) :
    v.getLsbD 1 = true ∧ v.getLsbD 0 = false ∧ k = 7 := by
  unfold crLost at h
  split at h
  next start =>
    have rst : (bit 7).getLsbD k = true := h
    simp_all
  next => simp at h

theorem crWrite_keepsNic (v : Byte) : KeepsNic (crLost v) s (crWrite v s) := by
  have stored := setCr_keepsNic (crLost v) s v
  have stopped := stored.optional (v.getLsbD 0) fun _ => crStop_keepsNic _ _
  have started := stopped.optional (v.getLsbD 1 && !v.getLsbD 0) fun start => by
    rw [crLost, if_pos start]
    exact crStart_keepsNic _
  exact (started.optional _ fun _ => transmit_keepsNic _ _).trans (rdCommand_keepsNic _ _ _)

/-! ### Remote DMA (44_ne2000_cr_dma_tx.md R342 to R347) -/

/-- A transfer leaves the progress counter below the count, or back at 0 (R343). -/
theorem dmaAdvance_keepsNic (w : Width) : KeepsNic lost s (dmaAdvance w s) := by
  unfold dmaAdvance dmaCompleteCheck
  split
  next complete =>
    exact ⟨by simp [Nic.CrOk], by simp, fun _ => by simp, by simp [State.FramesOk], fun k hk => .inl (by simp [hk])⟩
  next incomplete =>
    have below : ¬ s.nic.dmaCount ≤ s.nic.dmaProgress + widthBytes w := incomplete
    have count : s.nic.dmaCount < 65536 := pair_lt _ _
    exact setProgress_keepsNic lost s (by omega)

theorem dmaFail_keepsNic : KeepsNic lost s (dmaFail s) :=
  (report_keepsNic lost s .dmaBounds).trans
    ((setProgress_keepsNic lost _ (n := 0) (by decide)).trans (.of_fields_eq lost rfl rfl rfl rfl rfl))

theorem exec_nicDataIn_keepsNic {w : Width} {t : State} (h : exec (.nicDataIn w) s = .next t) : KeepsNic lost s t := by
  rcases exec_nicDataIn_cases w s with ⟨_, e⟩ | ⟨_, _, e⟩ | ⟨_, _, _, e⟩ | ⟨_, _, _, e⟩ <;> rw [e] at h <;> cases h
  · exact badWidthAccess_keepsNic lost s .input w
  · exact (reply_keepsNic lost s _).trans (dmaAdvance_keepsNic lost _ w)
  · exact (reply_keepsNic lost s _).trans (dmaFail_keepsNic lost _)

/-- The bytes of a data-port OUT that the bound admits lie inside RAM (R342). -/
theorem dmaStore_wf {n : Nic} {w : Width} {bytes : List Byte} (hn : n.ram.wf) (inRam : n.dmaInRam w = true)
    (len : bytes.length = widthBytes w) : (n.ram.writeRun n.dmaPos bytes).wf := by
  have bound := (n.dmaInRam_iff w).mp inRam
  exact Memory.wf_writeRun hn (by rw [len]; exact bound)

theorem exec_nicDataOut_keepsNic {w : Width} {v : Byte} {t : State} (h : exec (.nicDataOut w v) s = .next t) :
    KeepsNic lost s t := by
  rcases exec_nicDataOut_cases w v s with ⟨_, e⟩ | ⟨_, _, e⟩ | ⟨_, _, inRam, e⟩ | ⟨_, _, _, e⟩ <;>
    rw [e] at h <;> cases h
  · exact badWidthAccess_keepsNic lost s .output w
  · exact (store_keepsNic lost s s.nic.curr fun wf => dmaStore_wf wf inRam (s.outBytes_length w v)).trans
      ((returning_keepsNic lost _ .ok).trans (dmaAdvance_keepsNic lost _ w))
  · exact (returning_keepsNic lost s .ok).trans (dmaFail_keepsNic lost _)

/-! ### The ingress task (45_ne2000_rx.md) -/

/-- A packet that the ring configuration admits is stored inside RAM (R394, R397). -/
theorem ringStore_wf {n : Nic} {packet : List Byte} (hn : n.ram.wf)
    (ok : n.ringOk (ringPages packet.length) = true) : (n.ringStore packet).wf := by
  refine Memory.wf_writeCells (Memory.wf_writeRun hn ?_) fun c hc => ?_
  · have := n.curr.isLt
    simp only [ringHeader, pageAddr, List.length_cons, List.length_nil]
    omega
  · obtain ⟨k, hk, e⟩ := Nic.ringCells_range hc
    obtain ⟨_, inRing⟩ := Nic.ringAddr_range ok hk
    have := n.pstop.isLt
    rw [e, Nat.zero_add]
    unfold pageAddr at inRing
    omega

theorem ringCommit_keepsNic {packet : List Byte} (ok : s.nic.ringOk (ringPages packet.length) = true) :
    KeepsNic lost s (ringCommit packet s) :=
  (store_keepsNic lost s _ fun wf => ringStore_wf wf ok).trans (signal_keepsNic lost _ isrPrx)

theorem deliver_keepsNic {packet : List Byte} {t : State} (h : deliver packet s = .next t) : KeepsNic lost s t := by
  rcases deliver_cases packet s with ⟨_, e⟩ | ⟨_, _, e⟩ | ⟨_, _, _, e⟩ | ⟨_, ok, _, e⟩ <;> rw [e] at h <;> cases h
  · exact signal_keepsNic lost s isrRxe
  · exact signal_keepsNic lost s isrOvw
  · exact ringCommit_keepsNic lost s ok

theorem exec_nicRxPoll_keepsNic {t : State} (h : exec .nicRxPoll s = .next t) : KeepsNic lost s t := by
  rcases exec_nicRxPoll_cases s with e | ⟨_, _, _, e⟩ | ⟨_, _, _, _, e⟩ <;> rw [e] at h <;> cases h
  · exact returning_keepsNic lost s .done
  · exact (report_keepsNic lost s .hostRead).trans (returning_keepsNic lost _ .done)
  · exact .of_fields_eq lost rfl rfl rfl rfl rfl

theorem exec_nicRxDeliver_keepsNic {t : State} (h : exec .nicRxDeliver s = .next t) : KeepsNic lost s t := by
  rcases exec_nicRxDeliver_cases s with ⟨_, e⟩ | ⟨_, _, _, _, e⟩ | ⟨packet, _, _, e⟩ <;> rw [e] at h
  · cases h
    exact returning_keepsNic lost s .done
  · cases h
    exact .of_fields_eq lost rfl rfl rfl rfl rfl
  · refine KeepsNic.trans ?_ (deliver_keepsNic lost _ h)
    exact .of_fields_eq lost rfl rfl rfl rfl rfl

/-- Power-on empties RAM and resets the NIC (70_reset_and_hazards.md R470). -/
theorem powerOn_keepsNic : KeepsNic (BitVec.allOnes 8) s (powerOn s) := by
  refine KeepsNic.trans ?_ ((nicReset_keepsNic _).trans (useDraws_keepsNic _ _ powerOnDraws))
  exact ⟨id, fun _ => ⟨.nil, nofun⟩, id, id, fun _ => .inl⟩

end Operations

/-- The NIC ISR bits an instruction may clear (10_state.md R52). -/
def lostStatus : Instr → Byte
  | .nicIsrW v => v
  | .nicCrW v => crLost v
  | .nicResetW _ _ | .sysPowerOn => BitVec.allOnes 8
  | _ => 0

theorem lostStatus_cases {i : Instr} {k : Nat} (h : (lostStatus i).getLsbD k = true) :
    (∃ v, i = .nicIsrW v ∧ v.getLsbD k = true) ∨
    (∃ v, i = .nicCrW v ∧ v.getLsbD 1 = true ∧ v.getLsbD 0 = false ∧ k = 7) ∨
    (∃ w v, i = .nicResetW w v) ∨ i = .sysPowerOn := by
  cases i with
  | nicIsrW v => exact .inl ⟨v, rfl, h⟩
  | nicCrW v => exact .inr (.inl ⟨v, rfl, crLost_bit h⟩)
  | nicResetW w v => exact .inr (.inr (.inl ⟨w, v, rfl⟩))
  | sysPowerOn => exact .inr (.inr (.inr rfl))
  | _ => simp [lostStatus] at h

theorem exec_nic_keepsNic {i : Instr} {s t : State} (part : partOf i = .nic) (h : exec i s = .next t) :
    KeepsNic (lostStatus i) s t := by
  cases i with
  | nicPstartW v | nicPstopW v | nicBnryW v | nicTpsrW v | nicTbcr0W v | nicTbcr1W v | nicRsar0W v | nicRsar1W v
  | nicRbcr0W v | nicRbcr1W v | nicRcrW v | nicTcrW v | nicDcrW v | nicParW k v | nicCurrW v | nicMarW k v =>
    obtain rfl := Host.Outcome.next.inj h
    exact .of_fields_eq _ rfl rfl rfl rfl rfl
  | nicCrR | nicBnryR | nicIsrR | nicParR k | nicCurrR | nicMarR k | nicPstartR | nicPstopR | nicTpsrR | nicRcrR
  | nicTcrR | nicDcrR | nicImrR =>
    obtain rfl := Host.Outcome.next.inj h
    exact reply_keepsNic _ s _
  | nicCrW v =>
    obtain rfl := Host.Outcome.next.inj h
    exact (crWrite_keepsNic s v).trans (returning_keepsNic _ _ .ok)
  | nicIsrW v =>
    obtain rfl := Host.Outcome.next.inj h
    exact (clearIsr_keepsNic v s).trans
      (((lowerIfIdle_requests _).keepsNic v).trans (returning_keepsNic v _ .ok))
  | nicImrW v =>
    obtain rfl := Host.Outcome.next.inj h
    refine KeepsNic.trans ?_ (((irqFollow_requests _).keepsNic 0).trans (returning_keepsNic 0 _ .ok))
    exact .of_fields_eq 0 rfl rfl rfl rfl rfl
  | nicInvalid o pg d w v =>
    obtain rfl := Host.Outcome.next.inj h
    exact (drawReply_keepsNic _ s d w .ok).trans (report_keepsNic _ _ .invalidRegister)
  | nicBadwidth o d w v =>
    obtain rfl := Host.Outcome.next.inj h
    exact badWidthAccess_keepsNic _ s d w
  | nicResetW w v =>
    obtain rfl := Host.Outcome.next.inj h
    exact (nicReset_keepsNic s).trans (returning_keepsNic _ _ .ok)
  | nicResetR w =>
    obtain rfl := Host.Outcome.next.inj h
    exact drawReply_keepsNic _ s .input w .ok
  | nicDataIn w => exact exec_nicDataIn_keepsNic _ s h
  | nicDataOut w v => exact exec_nicDataOut_keepsNic _ s h
  | nicRxPoll => exact exec_nicRxPoll_keepsNic _ s h
  | nicRxDeliver => exact exec_nicRxDeliver_keepsNic _ s h
  | _ => cases part

/-- What every instruction keeps of the NIC. -/
theorem exec_keepsNic {i : Instr} {s t : State} (h : exec i s = .next t) : KeepsNic (lostStatus i) s t := by
  cases part : partOf i with
  | pic =>
    have kept := exec_pic_keepsOutsidePic part h
    exact .of_nic_eq _ kept.nic kept.hostWrites
  | nic => exact exec_nic_keepsNic part h
  | bus =>
    obtain ⟨⟨_, _, nic, _, _⟩, frames⟩ := exec_bus_sameBlock part h
    exact .of_nic_eq _ nic frames
  | construction =>
    cases i with
    | sysPowerOn =>
      obtain rfl := Host.Outcome.next.inj h
      exact (powerOn_keepsNic s).trans (returning_keepsNic _ _ .done)
    | _ => cases part

/-! ## The BUS table (10_state.md R38) -/

theorem powerOn_bus (s : State) : (powerOn s).bus = portMap := by
  simp [powerOn, nicReset]

/-- Every instruction but power-on leaves the BUS table, and power-on builds the port map. -/
theorem exec_bus {i : Instr} {s t : State} (h : exec i s = .next t) : t.bus = s.bus ∨ t.bus = portMap := by
  cases part : partOf i with
  | pic => exact .inl (exec_pic_keepsOutsidePic part h).bus
  | nic => exact .inl (exec_nic_keepsOutsideNic part h).bus
  | bus =>
    obtain ⟨⟨_, _, _, bus, _⟩, _⟩ := exec_bus_sameBlock part h
    exact .inl bus
  | construction =>
    cases i with
    | sysPowerOn =>
      obtain rfl := Host.Outcome.next.inj h
      exact .inr (powerOn_bus s)
    | _ => cases part

theorem exec_keeps_portMap {i : Instr} {s t : State} (h : exec i s = .next t) (bus : s.bus = portMap) :
    t.bus = portMap :=
  (exec_bus h).elim (·.trans bus) id

theorem busDevice_nil (port : Port) : busDevice [] port = none := rfl

theorem busDevice_cons (r : BusRange) (bus : List BusRange) (port : Port) :
    busDevice (r :: bus) port =
      if r.first ≤ port.toNat ∧ port.toNat ≤ r.last then some r.device else busDevice bus port := by
  unfold busDevice
  rw [List.find?_cons]
  by_cases inRange : r.first ≤ port.toNat ∧ port.toNat ≤ r.last
  · rw [if_pos inRange, decide_eq_true inRange]
    rfl
  · rw [if_neg inRange, decide_eq_false inRange]

/-! ## Where decoding reads the state (30_encoding.md R143, R159) -/

/-- The fields of a port access with `c`, `pg` and `v` filled (R143). -/
def filledFields (s : State) (m : Move) : PioFields :=
  { pioFields m.x with
    c := if isPicPort (pioFields m.x).port then (s.chip (chipOfPort (pioFields m.x).port)).counter else 0
    pg := if isNicPort (pioFields m.x).port then s.nic.page else 0
    v := match dirOfBit (pioFields m.x).d with
      | .output => m.bytes.b0
      | .input => 0 }

theorem fillDescriptor_of_pio (s : State) {m : Move} (format : m.x.getLsbD 31 = false) :
    fillDescriptor s m = pioWord (filledFields s m) := by
  unfold fillDescriptor
  rw [format]
  rfl

theorem filledFields_v_of_output (s : State) {m : Move} (dir : dirOfBit (pioFields m.x).d = .output) :
    (filledFields s m).v = m.bytes.b0 := by
  unfold filledFields
  rw [dir]

theorem filledFields_v_of_input (s : State) {m : Move} (dir : dirOfBit (pioFields m.x).d = .input) :
    (filledFields s m).v = 0 := by
  unfold filledFields
  rw [dir]

theorem filledFields_c_of_pic (s : State) {m : Move} {chip : Chip} {p : PicPort}
    (port : (pioFields m.x).port = picPortNumber chip p) : (filledFields s m).c = (s.chip chip).counter := by
  unfold filledFields
  rw [port]
  cases chip <;> cases p <;> rfl

theorem filledFields_pg_of_nic (s : State) {m : Move} (port : isNicPort (pioFields m.x).port = true) :
    (filledFields s m).pg = s.nic.page :=
  if_pos port

/-- The direction of a port access is bit 16 of its descriptor (R142). -/
theorem dirOfBit_pioFields (x : Descriptor) :
    dirOfBit (pioFields x).d = if x.getLsbD 16 then .output else .input := by
  have bit16 : x.extractLsb' 16 1 = 1 ↔ x.getLsbD 16 = true := by
    constructor
    · intro h
      simpa [BitVec.getLsbD_extractLsb'] using congrArg (BitVec.getLsbD · 0) h
    · intro h
      refine BitVec.eq_of_getLsbD_eq fun i hi => ?_
      obtain rfl : i = 0 := by omega
      simpa [BitVec.getLsbD_extractLsb'] using h
  unfold dirOfBit pioFields
  simp only [bit16]

/-- A port access of width 1 is decoded by the device of its port (R148). -/
theorem decodePio_w1 {f : PioFields} (bus : List BusRange) (width : f.w = 0) (v : dirOfBit f.d = .input → f.v = 0) :
    decodePio bus f = .ok (decodeDevice (busDevice bus f.port) f (dirOfBit f.d) .w1 f.v) := by
  unfold decodePio
  rw [width]
  cases dir : dirOfBit f.d with
  | input =>
    rw [v dir]
    rfl
  | output => rfl

/-- A step whose move is a port access of width 1 runs what its port's device makes of the filled fields. -/
theorem step_of_pio_w1 {s : State} {m : Move} {rest : List Move} {d : Dir} (agenda : s.agenda = m :: rest)
    (format : m.x.getLsbD 31 = false) (width : m.x.extractLsb' 17 2 = 0) (dir : dirOfBit (pioFields m.x).d = d) :
    step s = exec
      (decodeDevice (busDevice s.bus (filledFields s m).port) (filledFields s m) d .w1 (filledFields s m).v)
      (s.beginMove m rest) := by
  subst dir
  refine step_of_decoded agenda ?_
  rw [fillDescriptor_of_pio s format, decodeWith_pioWord]
  exact decodePio_w1 s.bus width (filledFields_v_of_input s)

theorem decodePicData_eq (chip : Chip) (c : BitVec 2) (v : Byte) :
    decodePicData chip c v =
      if c = 1 then .picIcw2 chip v
      else if c = 2 then .picIcw3 chip v
      else if c = 3 then .picIcw4 chip v
      else .picImrW chip v := by
  have values : c = 0 ∨ c = 1 ∨ c = 2 ∨ c = 3 := by revert c; decide
  rcases values with rfl | rfl | rfl | rfl <;> rfl

theorem busDevice_master (p : PicPort) : busDevice portMap (picPortNumber .master p) = some .picMaster := by
  cases p <;> decide

theorem busDevice_slave (p : PicPort) : busDevice portMap (picPortNumber .slave p) = some .picSlave := by
  cases p <;> decide

theorem picPortOf_data (chip : Chip) : picPortOf (picPortNumber chip .data) = .data := by
  cases chip <;> rfl

theorem decodeDevice_picData_out {f : PioFields} {chip : Chip} (port : f.port = picPortNumber chip .data) (v : Byte) :
    decodeDevice (busDevice portMap f.port) f .output .w1 v = decodePicData chip f.c v := by
  unfold decodeDevice
  rw [port, picPortOf_data]
  cases chip with
  | master =>
    rw [busDevice_master]
    rfl
  | slave =>
    rw [busDevice_slave]
    rfl

theorem decodeNicRegister_offset7 (pg : BitVec 2) :
    decodeNicRegister 7 pg .input 0 =
      if pg = 0 then .nicIsrR else if pg = 1 then .nicCurrR else .nicInvalid 7 pg .input .w1 0 := by
  have values : pg = 0 ∨ pg = 1 ∨ pg = 2 ∨ pg = 3 := by revert pg; decide
  rcases values with rfl | rfl | rfl | rfl <;> rfl

theorem decodeDevice_nicOffset7_in {f : PioFields} (port : f.port = 0x307) :
    decodeDevice (busDevice portMap f.port) f .input .w1 0 = decodeNicRegister 7 f.pg .input 0 := by
  have device : busDevice portMap f.port = some .nic := by
    rw [port]
    decide
  rw [device]
  unfold decodeDevice
  rw [port]
  rfl

/-! ## The invariant of the block -/

/-- The invariant is kept by every instruction, from every state that has it. -/
theorem exec_keeps_inv {i : Instr} {s t : State} (inv : s.Inv) (h : exec i s = .next t) : t.Inv := by
  have nic := exec_keepsNic h
  exact
    { ram := nic.ram inv.ram
      bus := exec_keeps_portMap h inv.bus
      cr := nic.cr inv.cr
      progress := nic.progress inv.progress
      masterCounter := (exec_chipStep h .master).counterOk inv.masterCounter
      slaveCounter := (exec_chipStep h .slave).counterOk inv.slaveCounter
      frames := nic.frames inv.frames }

/-- Taking a move off the agenda touches nothing the invariant speaks of. -/
theorem beginMove_inv {s : State} (inv : s.Inv) (m : Move) (rest : List Move) : (s.beginMove m rest).Inv :=
  ⟨inv.ram, inv.bus, inv.cr, inv.progress, inv.masterCounter, inv.slaveCounter, inv.frames⟩

/-! ## The statements -/

/-- Settles O10: each value is the one `State.reset` is written with, and the MAC stands in RAM twice. -/
theorem resetValues : Obligations.ResetValues := by
  refine ⟨rfl, rfl, rfl, rfl, rfl, rfl, rfl, rfl, rfl, rfl, rfl, rfl, rfl, rfl, rfl, fun k => ?_⟩
  fin_cases k <;> exact ⟨rfl, rfl⟩

/-- Settles O59. -/
theorem invariantAtReset : Obligations.InvariantAtReset where
  ram := reset_ram_wf
  bus := rfl
  cr := ⟨rfl, fun _ => rfl⟩
  progress := by decide
  masterCounter := ⟨nofun, nofun⟩
  slaveCounter := ⟨nofun, nofun⟩
  frames := nofun

/-- Settles O51: the table is read range by range, and only power-on writes it. -/
theorem busTable : Obligations.BusTable := by
  refine ⟨fun port => ?_, fun i s t h bus => (exec_keeps_portMap h bus).trans bus.symm⟩
  have single : ∀ n, (n ≤ port.toNat ∧ port.toNat ≤ n) ↔ port.toNat = n := by omega
  show busDevice portMap port = _
  simp only [portMap, busDevice_cons, busDevice_nil, single, ite_or]

/-- Settles O53, from the inversion for a chip: only the EOIs, ICW1 and power-on write a 0 into ISR, and only an
acknowledgement a 1. -/
theorem inServiceChanges : Obligations.InServiceChanges := by
  intro i s t c k h
  have chip := exec_chipStep h c
  generalize s.chip c = p, t.chip c = q at chip ⊢
  cases chip with
  | requests | icw2 | icw3 | icw4 | imrW =>
    exact ⟨fun set clear => (by cases set.symm.trans clear), fun clear set => (by cases clear.symm.trans set)⟩
  | ocw3 v =>
    rw [p.ocw3_isr v]
    exact ⟨fun set clear => (by cases set.symm.trans clear), fun clear set => (by cases clear.symm.trans set)⟩
  | icw1 v => exact ⟨fun _ _ => .inl ⟨v, rfl⟩, fun _ set => by simp at set⟩
  | eoi i a v line command reach =>
    refine ⟨fun _ _ => ?_, fun clear set => by simp [clear] at set⟩
    rcases reach with rfl | rfl
    · exact .inr (.inl ⟨v, command⟩)
    · exact .inr (.inr (.inl ⟨v, command⟩))
  | ack irr isr serving => exact ⟨fun set clear => by simp [serving k set] at clear, fun _ _ => rfl⟩
  | powerOn irr => exact ⟨fun _ _ => .inr (.inr (.inr rfl)), fun _ set => by simp [PicChip.reset] at set⟩

/-- Settles O54, from the inversion for a chip. -/
theorem picSetupChanges : Obligations.PicSetupChanges := by
  intro i s t c h notPowerOn
  have chip := exec_chipStep h c
  generalize s.chip c = p, t.chip c = q at chip ⊢
  cases chip with
  | requests | icw3 | icw4 | eoi | ack => exact ⟨absurd rfl, absurd rfl, absurd rfl⟩
  | icw1 v => exact ⟨fun _ => ⟨v, .inr rfl⟩, absurd rfl, absurd rfl⟩
  | icw2 v => exact ⟨absurd rfl, fun _ => ⟨v, rfl⟩, absurd rfl⟩
  | imrW v => exact ⟨fun _ => ⟨v, .inl rfl⟩, absurd rfl, absurd rfl⟩
  | ocw3 v => exact ⟨absurd (p.ocw3_imr v), absurd (p.ocw3_offset v), fun _ => ⟨v, rfl⟩⟩
  | powerOn irr => exact absurd rfl notPowerOn

/-- Settles O56: a bit that falls is one `lostStatus` allows its instruction to clear. -/
theorem nicStatusBitsFall : Obligations.NicStatusBitsFall := by
  intro i s t k h set clear
  exact lostStatus_cases (by simpa [clear] using (exec_keepsNic h).status k set)

/-- Settles O60: a step that answers a next state idles or runs an instruction. -/
theorem invariantKept : Obligations.InvariantKept := by
  intro s t inv h
  cases agenda : s.agenda with
  | nil =>
    rw [step_of_idle agenda] at h
    cases h
    exact inv
  | cons m rest =>
    cases decoded : decodeWith s.bus (fillDescriptor s m) with
    | ok i =>
      rw [step_of_decoded agenda decoded] at h
      exact exec_keeps_inv (beginMove_inv inv m rest) h
    | error why =>
      rw [step_of_reserved agenda decoded] at h
      cases h

/-- Settles O7: the two places read the counter and the page that the fill took from the state. -/
theorem decodeFollowsMode : Obligations.DecodeFollowsMode := by
  intro s m rest bus agenda format width
  refine ⟨fun chip out port => ?_, fun inn port => ?_⟩
  · have dir : dirOfBit (pioFields m.x).d = .output := by rw [dirOfBit_pioFields, out]; rfl
    rw [step_of_pio_w1 agenda format width dir, bus, decodeDevice_picData_out port, filledFields_c_of_pic s port,
      filledFields_v_of_output s dir, decodePicData_eq]
  · have dir : dirOfBit (pioFields m.x).d = .input := by rw [dirOfBit_pioFields, inn]; rfl
    have nicPort : isNicPort (pioFields m.x).port = true := by
      rw [show (pioFields m.x).port = 0x307 from port]
      rfl
    rw [step_of_pio_w1 agenda format width dir, bus, filledFields_v_of_input s dir, decodeDevice_nicOffset7_in port,
      filledFields_pg_of_nic s nicPort, decodeNicRegister_offset7]
    rfl

end Sys2Proof.Machine

/-!
PROOFS. NIC RAM (20_memory.md): where a byte of RAM can change. First what each operation of the NIC does to one byte,
then one inversion of `exec` for a RAM byte, off which the statement is read.
-/

namespace Sys2Proof.Machine

/-! ## One RAM byte under the NIC's operations (10_state.md R41) -/

@[simp] theorem signal_ramByte (b : Byte) (s : State) (x : Nat) : (signal b s).nic.ramByte x = s.nic.ramByte x := by
  rw [signal_nic]
  rfl

@[simp] theorem report_ramByte (k : NicErrKind) (s : State) (x : Nat) :
    (report k s).nic.ramByte x = s.nic.ramByte x := signal_ramByte _ s x

@[simp] theorem badWidthAccess_ramByte (d : Dir) (w : Width) (s : State) (x : Nat) :
    (badWidthAccess d w s).nic.ramByte x = s.nic.ramByte x := by
  rw [badWidthAccess_nic]
  rfl

@[simp] theorem dmaAdvance_ramByte (w : Width) (s : State) (x : Nat) :
    (dmaAdvance w s).nic.ramByte x = s.nic.ramByte x := by
  rw [dmaAdvance_nic]
  split <;> rfl

@[simp] theorem dmaFail_ramByte (s : State) (x : Nat) : (dmaFail s).nic.ramByte x = s.nic.ramByte x := by
  rw [dmaFail_nic]
  rfl

@[simp] theorem crWrite_ramByte (v : Byte) (s : State) (x : Nat) :
    (crWrite v s).nic.ramByte x = s.nic.ramByte x := by
  obtain ⟨_, _, _, _, e⟩ := crWrite_nic v s
  rw [e]
  rfl

/-- A NIC reset writes the MAC twice, from address 0, and no byte after it (70_reset_and_hazards.md R471). -/
theorem Nic.afterReset_ramByte_of_le (n : Nic) (p : Params) {x : Nat} (h : 12 ≤ x) :
    (n.afterReset p).ramByte x = n.ramByte x := by
  have outside : ¬ (0 ≤ x ∧ x < 0 + (p.mac.toList ++ p.mac.toList).length) := by simpa using h
  exact (n.ramByte_writeRun 0 _ x).trans (if_neg outside)

/-- Where the checks of R394 hold, the header of a packet lies inside the ring (45_ne2000_rx.md R397). -/
theorem Nic.ringHeader_range {n : Nic} {pages : Nat} (ok : n.ringOk pages = true) :
    pageAddr n.pstart ≤ pageAddr n.curr ∧ pageAddr n.curr + 4 ≤ pageAddr n.pstop := by
  simp only [Nic.ringOk, Bool.and_eq_true, decide_eq_true_eq] at ok
  unfold pageAddr
  omega

/-- A packet that the ring configuration admits is stored inside the ring: every other byte stays
(45_ne2000_rx.md R394, R397). -/
theorem Nic.ringStore_read?_outside {n : Nic} {packet : List Byte} {x : Nat}
    (ok : n.ringOk (ringPages packet.length) = true) (outside : ¬ (pageAddr n.pstart ≤ x ∧ x < pageAddr n.pstop)) :
    (n.ringStore packet).read? x = n.ram.read? x := by
  have dataElsewhere : ∀ c ∈ n.ringCells 0 packet, c.1 ≠ x := by
    rintro c hc rfl
    obtain ⟨k, hk, e⟩ := Nic.ringCells_range hc
    rw [e, Nat.zero_add] at outside
    exact outside (Nic.ringAddr_range ok hk)
  have headerElsewhere : ¬ (pageAddr n.curr ≤ x ∧ x < pageAddr n.curr + 4) := by
    have header := Nic.ringHeader_range ok
    omega
  unfold Nic.ringStore
  rw [Memory.read?_writeCells_notin _ _ dataElsewhere, Memory.read?_writeRun]
  exact if_neg headerElsewhere

theorem ringCommit_ramByte_outside {packet : List Byte} {s : State} {x : Nat}
    (ok : s.nic.ringOk (ringPages packet.length) = true)
    (outside : ¬ (pageAddr s.nic.pstart ≤ x ∧ x < pageAddr s.nic.pstop)) :
    (ringCommit packet s).nic.ramByte x = s.nic.ramByte x := by
  rw [ringCommit_nic]
  unfold Nic.ramByte
  rw [Nic.ringStore_read?_outside ok outside]

/-- A delivery writes no byte outside the ring, whichever way it completes. -/
theorem deliver_ramByte_outside {packet : List Byte} {s t : State} {x : Nat} (h : deliver packet s = .next t)
    (outside : ¬ (pageAddr s.nic.pstart ≤ x ∧ x < pageAddr s.nic.pstop)) : t.nic.ramByte x = s.nic.ramByte x := by
  rcases deliver_cases packet s with ⟨_, e⟩ | ⟨_, _, e⟩ | ⟨_, _, _, e⟩ | ⟨_, ok, _, e⟩ <;> rw [e] at h <;> cases h
  · exact signal_ramByte isrRxe s x
  · exact signal_ramByte isrOvw s x
  · exact ringCommit_ramByte_outside ok outside

/-! ## What an instruction can do to a RAM byte (20_memory.md R101) -/

/-- `RamWriter n x i`: from the NIC `n`, instruction `i` may write RAM byte `x`. -/
inductive RamWriter (n : Nic) (x : Nat) : Instr → Prop where
  /-- 44_ne2000_cr_dma_tx.md R347: the bytes of the access. -/
  | dataOut (w : Width) (v : Byte) (low : n.dmaPos ≤ x) (high : x < n.dmaPos + widthBytes w) :
    RamWriter n x (.nicDataOut w v)
  /-- 45_ne2000_rx.md R397: the ring. -/
  | deliver (low : pageAddr n.pstart ≤ x) (high : x < pageAddr n.pstop) : RamWriter n x .nicRxDeliver
  /-- 70_reset_and_hazards.md R471: the MAC, twice. -/
  | reset (w : Width) (v : Byte) (mac : x < 12) : RamWriter n x (.nicResetW w v)
  /-- 70_reset_and_hazards.md R470. -/
  | powerOn : RamWriter n x .sysPowerOn

theorem exec_nicDataIn_ramByte {w : Width} {s t : State} (h : exec (.nicDataIn w) s = .next t) (x : Nat) :
    t.nic.ramByte x = s.nic.ramByte x := by
  rcases exec_nicDataIn_cases w s with ⟨_, e⟩ | ⟨_, _, e⟩ | ⟨_, _, _, e⟩ | ⟨_, _, _, e⟩ <;> rw [e] at h <;> cases h
  · exact badWidthAccess_ramByte .input w s x
  · exact dmaAdvance_ramByte w _ x
  · exact dmaFail_ramByte _ x

theorem exec_nicDataOut_ramByte {w : Width} {v : Byte} {s t : State} (h : exec (.nicDataOut w v) s = .next t)
    (x : Nat) : t.nic.ramByte x = s.nic.ramByte x ∨ RamWriter s.nic x (.nicDataOut w v) := by
  rcases exec_nicDataOut_cases w v s with ⟨_, e⟩ | ⟨_, _, e⟩ | ⟨_, _, _, e⟩ | ⟨_, _, _, e⟩ <;> rw [e] at h <;> cases h
  · exact .inl (badWidthAccess_ramByte .output w s x)
  · rw [dmaAdvance_ramByte, State.returning_nic, Nic.ramByte_writeRun, State.outBytes_length]
    split
    next inside =>
      obtain ⟨low, high⟩ := inside
      exact .inr (.dataOut w v low high)
    next => exact .inl rfl
  · exact .inl (dmaFail_ramByte _ x)

theorem exec_nicRxPoll_ramByte {s t : State} (h : exec .nicRxPoll s = .next t) (x : Nat) :
    t.nic.ramByte x = s.nic.ramByte x := by
  rcases exec_nicRxPoll_cases s with e | ⟨_, _, _, e⟩ | ⟨_, _, _, _, e⟩ <;> rw [e] at h <;> cases h
  · rfl
  · exact report_ramByte .hostRead s x
  · rfl

theorem exec_nicRxDeliver_ramByte {s t : State} (h : exec .nicRxDeliver s = .next t) (x : Nat) :
    t.nic.ramByte x = s.nic.ramByte x ∨ RamWriter s.nic x .nicRxDeliver := by
  by_cases inside : pageAddr s.nic.pstart ≤ x ∧ x < pageAddr s.nic.pstop
  · obtain ⟨low, high⟩ := inside
    exact .inr (.deliver low high)
  · left
    rcases exec_nicRxDeliver_cases s with ⟨_, e⟩ | ⟨_, _, _, _, e⟩ | ⟨_, _, _, e⟩ <;> rw [e] at h
    · cases h
      rfl
    · cases h
      rfl
    · have kept := deliver_ramByte_outside h inside
      exact kept

theorem exec_nicResetW_ramByte (w : Width) (v : Byte) (s : State) (x : Nat) :
    ((nicReset s).returning .ok).nic.ramByte x = s.nic.ramByte x ∨ RamWriter s.nic x (.nicResetW w v) := by
  rw [State.returning_nic, nicReset_nic]
  by_cases mac : x < 12
  · exact .inr (.reset w v mac)
  · exact .inl (s.nic.afterReset_ramByte_of_le s.params (by omega))

theorem exec_nic_ramByte {i : Instr} {s t : State} (part : partOf i = .nic) (h : exec i s = .next t) (x : Nat) :
    t.nic.ramByte x = s.nic.ramByte x ∨ RamWriter s.nic x i := by
  cases i with
  | nicPstartW v | nicPstopW v | nicBnryW v | nicTpsrW v | nicTbcr0W v | nicTbcr1W v | nicRsar0W v | nicRsar1W v
  | nicRbcr0W v | nicRbcr1W v | nicRcrW v | nicTcrW v | nicDcrW v | nicParW k v | nicCurrW v | nicMarW k v
  | nicCrR | nicBnryR | nicIsrR | nicParR k | nicCurrR | nicMarR k | nicPstartR | nicPstopR | nicTpsrR | nicRcrR
  | nicTcrR | nicDcrR | nicImrR | nicResetR w =>
    obtain rfl := Host.Outcome.next.inj h
    exact .inl rfl
  | nicCrW v =>
    obtain rfl := Host.Outcome.next.inj h
    exact .inl (crWrite_ramByte v s x)
  | nicIsrW v =>
    obtain rfl := Host.Outcome.next.inj h
    rw [State.returning_nic, lowerIfIdle_nic]
    exact .inl rfl
  | nicImrW v =>
    obtain rfl := Host.Outcome.next.inj h
    rw [State.returning_nic, irqFollow_nic]
    exact .inl rfl
  | nicInvalid o pg d w v =>
    obtain rfl := Host.Outcome.next.inj h
    rw [report_ramByte, State.drawReply_nic]
    exact .inl rfl
  | nicBadwidth o d w v =>
    obtain rfl := Host.Outcome.next.inj h
    exact .inl (badWidthAccess_ramByte d w s x)
  | nicResetW w v =>
    obtain rfl := Host.Outcome.next.inj h
    exact exec_nicResetW_ramByte w v s x
  | nicDataIn w => exact .inl (exec_nicDataIn_ramByte h x)
  | nicDataOut w v => exact exec_nicDataOut_ramByte h x
  | nicRxPoll => exact .inl (exec_nicRxPoll_ramByte h x)
  | nicRxDeliver => exact exec_nicRxDeliver_ramByte h x
  | _ => cases part

/-- The inversion of `exec` for a RAM byte. -/
theorem exec_ramByte {i : Instr} {s t : State} (h : exec i s = .next t) (x : Nat) :
    t.nic.ramByte x = s.nic.ramByte x ∨ RamWriter s.nic x i := by
  cases part : partOf i with
  | pic =>
    rw [(exec_pic_keepsOutsidePic part h).nic]
    exact .inl rfl
  | nic => exact exec_nic_ramByte part h x
  | bus =>
    obtain ⟨⟨_, _, nic, _, _⟩, _⟩ := exec_bus_sameBlock part h
    rw [nic]
    exact .inl rfl
  | construction =>
    cases i with
    | sysPowerOn => exact .inr .powerOn
    | _ => cases part

/-! ## The statement -/

/-- Settles O57: the four writers of a RAM byte are the four clauses. -/
theorem ramChanges : Obligations.RamChanges := by
  intro i s t x h changed
  cases (exec_ramByte h x).resolve_left changed with
  | dataOut w v low high => exact .inl ⟨w, v, rfl, low, high⟩
  | deliver low high => exact .inr (.inl ⟨rfl, low, high⟩)
  | reset w v mac => exact .inr (.inr (.inl ⟨w, v, rfl, mac⟩))
  | powerOn => exact .inr (.inr (.inr rfl))

end Sys2Proof.Machine

/-!
PROOFS. Access descriptors (30_encoding.md): what the decoder makes of the word the encoder writes, that every decoded
word is a well-formed instruction, which words are reserved, and how a move's descriptor is filled. The decoder is read
once for each layer of it (a port access, a device, a NIC offset, an event); round trip and well-formedness are read off
these.
-/

namespace Sys2Proof.Machine

/-! ## Well-formed instructions with a condition on their operands -/

theorem wf_picWide (c : Chip) (p : PicPort) (d : Dir) (w : Width) (v : Byte) :
    (Instr.picWide c p d w v).wf = true ↔ w ≠ .w1 ∧ d.dataOk v = true := by
  simp [Instr.wf]

theorem wf_nicInvalid (o : BitVec 5) (pg : BitVec 2) (d : Dir) (w : Width) (v : Byte) :
    (Instr.nicInvalid o pg d w v).wf = true ↔ invalidSlot o pg d w = true ∧ d.dataOk v = true := by
  simp [Instr.wf]

theorem wf_nicBadwidth (o : BitVec 5) (d : Dir) (w : Width) (v : Byte) :
    (Instr.nicBadwidth o d w v).wf = true ↔ badWidthSlot o w = true ∧ d.dataOk v = true := by
  simp [Instr.wf]

theorem wf_busExt (port : Port) (d : Dir) (w : Width) (v : Byte) :
    (Instr.busExt port d w v).wf = true ↔
      (busDevice portMap port).map deviceIsExternal = some true ∧ d.dataOk v = true := by
  simp [Instr.wf]

theorem wf_busUnmapped (port : Port) (d : Dir) (w : Width) (v : Byte) :
    (Instr.busUnmapped port d w v).wf = true ↔ busDevice portMap port = none ∧ d.dataOk v = true := by
  simp [Instr.wf]

theorem invalidSlot_iff (o : BitVec 5) (pg : BitVec 2) (d : Dir) (w : Width) :
    invalidSlot o pg d w = true ↔
      (0x11 ≤ o.toNat ∧ o.toNat ≤ 0x1E) ∨
        (1 ≤ o.toNat ∧ o.toNat ≤ 0x0F ∧ w = .w1 ∧ nicSlot pg o d 0 = none) := by
  simp [invalidSlot, and_assoc]

theorem badWidthSlot_iff (o : BitVec 5) (w : Width) :
    badWidthSlot o w = true ↔ (o.toNat ≤ 0x0F ∧ w ≠ .w1) ∨ (o.toNat = 0x10 ∧ w = .w4) := by
  simp [badWidthSlot]

/-! ## Port accesses (R142, R148) -/

@[simp] theorem widthOfCode_codeOfWidth (w : Width) : widthOfCode (codeOfWidth w) = some w := by
  cases w <;> rfl

@[simp] theorem dirOfBit_bitOfDir (d : Dir) : dirOfBit (bitOfDir d) = d := by
  cases d <;> rfl

theorem dataOk_input {v : Byte} (h : Dir.input.dataOk v = true) : v = 0 := by
  simpa [Dir.dataOk] using h

/-- A port access of a legal width code is decoded by the device of its port, with `v = 0` for an IN (R148, R158). -/
theorem decodePio_of_width {f : PioFields} {w : Width} (bus : List BusRange) (width : widthOfCode f.w = some w) :
    ∃ v, (dirOfBit f.d).dataOk v = true ∧ ((dirOfBit f.d).dataOk f.v = true → v = f.v) ∧
      decodePio bus f = .ok (decodeDevice (busDevice bus f.port) f (dirOfBit f.d) w v) := by
  unfold decodePio
  rw [width]
  cases dirOfBit f.d with
  | input => exact ⟨0, rfl, fun h => (dataOk_input h).symm, rfl⟩
  | output => exact ⟨f.v, rfl, fun _ => rfl, rfl⟩

/-- The word of a port access is decoded by the device of its port. -/
theorem decode_access (c pg : BitVec 2) (port : Port) {d : Dir} (w : Width) {v : Byte} (data : d.dataOk v = true) :
    decode (pioWord ⟨c, v, pg, codeOfWidth w, bitOfDir d, port⟩) =
      .ok (decodeDevice (busDevice portMap port) ⟨c, v, pg, codeOfWidth w, bitOfDir d, port⟩ d w v) := by
  unfold decode
  rw [decodeWith_pioWord]
  obtain ⟨u, -, value, decoded⟩ := decodePio_of_width portMap
    (f := ⟨c, v, pg, codeOfWidth w, bitOfDir d, port⟩) (widthOfCode_codeOfWidth w)
  simp only [dirOfBit_bitOfDir] at value decoded
  rw [decoded, value data]

/-! ## The PIC decode map (R149) -/

theorem picPortOf_picPortNumber (chip : Chip) (p : PicPort) : picPortOf (picPortNumber chip p) = p := by
  cases chip <;> cases p <;> rfl

theorem decode_picAccess (c pg : BitVec 2) (chip : Chip) (p : PicPort) {d : Dir} (w : Width) {v : Byte}
    (data : d.dataOk v = true) :
    decode (pioWord ⟨c, v, pg, codeOfWidth w, bitOfDir d, picPortNumber chip p⟩) =
      .ok (decodePic chip c p d w v) := by
  rw [decode_access c pg _ w data]
  cases chip with
  | master => rw [busDevice_master, decodeDevice, picPortOf_picPortNumber]
  | slave => rw [busDevice_slave, decodeDevice, picPortOf_picPortNumber]

theorem decode_encodePicOut (c pg : BitVec 2) (chip : Chip) (p : PicPort) (v : Byte) :
    decode (encodePicOut c pg chip p v) = .ok (decodePic chip c p .output .w1 v) :=
  decode_picAccess c pg chip p .w1 (d := .output) rfl

theorem decode_encodePicIn (c pg : BitVec 2) (chip : Chip) (p : PicPort) :
    decode (encodePicIn c pg chip p) = .ok (decodePic chip c p .input .w1 0) :=
  decode_picAccess c pg chip p .w1 (d := .input) rfl

/-- The chip and the byte of a command-port OUT (41_pic_ports.md R201). -/
def commandByte : Instr → Option (Chip × Byte)
  | .picIcw1 c v | .picOcw2EoiSpec c v | .picOcw2Eoi c v | .picOcw2Nop c v | .picOcw3 c v => some (c, v)
  | _ => none

theorem decodePicCommand_wf (chip : Chip) (v : Byte) : (decodePicCommand chip v).wf = true := by
  unfold decodePicCommand
  split
  · assumption
  · split
    · simp_all [Instr.wf]
    · split
      · split <;> simp_all [Instr.wf]
      · simp_all [Instr.wf]

theorem decodePicCommand_of_wf {i : Instr} {chip : Chip} {v : Byte} (command : commandByte i = some (chip, v))
    (wf : i.wf = true) : decodePicCommand chip v = i := by
  cases i with
  | picIcw1 | picOcw2EoiSpec | picOcw2Eoi | picOcw2Nop | picOcw3 =>
    cases command
    simp_all [Instr.wf, decodePicCommand]
  | _ => cases command

theorem decodePicData_wf (chip : Chip) (c : BitVec 2) (v : Byte) : (decodePicData chip c v).wf = true := by
  unfold decodePicData
  split <;> rfl

theorem decodePic_wf (chip : Chip) (c : BitVec 2) (p : PicPort) {d : Dir} (w : Width) {v : Byte}
    (data : d.dataOk v = true) : (decodePic chip c p d w v).wf = true := by
  cases w with
  | w1 =>
    cases d with
    | input => cases p <;> rfl
    | output =>
      cases p with
      | command => exact decodePicCommand_wf chip v
      | data => exact decodePicData_wf chip c v
  | w2 => exact data
  | w4 => exact data

theorem decodePic_wide {w : Width} (wide : w ≠ .w1) (chip : Chip) (c : BitVec 2) (p : PicPort) (d : Dir) (v : Byte) :
    decodePic chip c p d w v = .picWide chip p d w v := by
  cases w with
  | w1 => exact absurd rfl wide
  | w2 => rfl
  | w4 => rfl

/-! ## The NE2000 decode map (R154) -/

theorem busDevice_nic (o : BitVec 5) : busDevice portMap (nicPortNumber o) = some .nic := by
  revert o
  decide

/-- The offset of a NIC port, `port & 0x1F`. -/
theorem nicPortNumber_offset (o : BitVec 5) : (nicPortNumber o).extractLsb' 0 5 = o := by
  revert o
  decide

theorem decode_nicAccess (c pg : BitVec 2) (o : BitVec 5) {d : Dir} (w : Width) {v : Byte} (data : d.dataOk v = true) :
    decode (pioWord ⟨c, v, pg, codeOfWidth w, bitOfDir d, nicPortNumber o⟩) = .ok (decodeNic o pg d w v) := by
  rw [decode_access c pg _ w data, busDevice_nic, decodeDevice, nicPortNumber_offset]

theorem decode_encodeNicOut (c pg : BitVec 2) (o : BitVec 5) (v : Byte) :
    decode (encodeNicOut c pg o v) = .ok (decodeNic o pg .output .w1 v) :=
  decode_nicAccess c pg o .w1 (d := .output) rfl

theorem decode_encodeNicIn (c pg : BitVec 2) (o : BitVec 5) :
    decode (encodeNicIn c pg o) = .ok (decodeNic o pg .input .w1 0) :=
  decode_nicAccess c pg o .w1 (d := .input) rfl

theorem nicReadSlot_wf {pg : BitVec 2} {o : BitVec 5} {i : Instr} (h : nicReadSlot pg o = some i) : i.wf = true := by
  unfold nicReadSlot at h
  split at h <;> cases h <;> rfl

theorem nicWriteSlot_wf {pg : BitVec 2} {o : BitVec 5} {v : Byte} {i : Instr} (h : nicWriteSlot pg o v = some i) :
    i.wf = true := by
  unfold nicWriteSlot at h
  split at h <;> cases h <;> rfl

theorem nicSlot_wf {pg : BitVec 2} {o : BitVec 5} {d : Dir} {v : Byte} {i : Instr} (h : nicSlot pg o d v = some i) :
    i.wf = true := by
  cases d with
  | input => exact nicReadSlot_wf h
  | output => exact nicWriteSlot_wf h

/-- Which offsets hold a register to write does not depend on the byte written (10_state.md R50). -/
theorem nicWriteSlot_isNone (pg : BitVec 2) (o : BitVec 5) (v u : Byte) :
    (nicWriteSlot pg o v).isNone = (nicWriteSlot pg o u).isNone := by
  unfold nicWriteSlot
  split <;> rfl

theorem nicSlot_eq_none_iff (pg : BitVec 2) (o : BitVec 5) (d : Dir) (v : Byte) :
    nicSlot pg o d v = none ↔ nicSlot pg o d 0 = none := by
  cases d with
  | input => rfl
  | output =>
    unfold nicSlot
    rw [← Option.isNone_iff_eq_none, nicWriteSlot_isNone pg o v 0, Option.isNone_iff_eq_none]

theorem decodeNicRegister_of_ne_zero {o : BitVec 5} (nonzero : o ≠ 0) (pg : BitVec 2) (d : Dir) (v : Byte) :
    decodeNicRegister o pg d v = (nicSlot pg o d v).getD (.nicInvalid o pg d .w1 v) :=
  if_neg nonzero

theorem decodeNic_of_badWidthSlot {o : BitVec 5} {w : Width} (h : badWidthSlot o w = true) (pg : BitVec 2) (d : Dir)
    (v : Byte) : decodeNic o pg d w v = .nicBadwidth o d w v := by
  unfold decodeNic
  rcases (badWidthSlot_iff o w).mp h with ⟨register, wide⟩ | ⟨dataPort, w4⟩
  · rw [if_pos register, if_neg wide]
  · rw [if_neg (by omega), if_pos dataPort, if_pos w4]

theorem decodeNic_of_invalidSlot {o : BitVec 5} {pg : BitVec 2} {d : Dir} {w : Width}
    (h : invalidSlot o pg d w = true) (v : Byte) : decodeNic o pg d w v = .nicInvalid o pg d w v := by
  unfold decodeNic
  rcases (invalidSlot_iff o pg d w).mp h with ⟨low, high⟩ | ⟨low, high, rfl, empty⟩
  · rw [if_neg (by omega), if_neg (by omega), if_neg (by omega)]
  · have nonzero : o ≠ 0 := by rintro rfl; exact absurd low (by decide)
    rw [if_pos high, if_pos rfl, decodeNicRegister_of_ne_zero nonzero, (nicSlot_eq_none_iff pg o d v).mpr empty,
      Option.getD_none]

theorem decodeNicRegister_wf {o : BitVec 5} (register : o.toNat ≤ 0x0F) (pg : BitVec 2) {d : Dir} {v : Byte}
    (data : d.dataOk v = true) : (decodeNicRegister o pg d v).wf = true := by
  by_cases zero : o = 0
  · subst zero
    cases d <;> rfl
  · rw [decodeNicRegister_of_ne_zero zero]
    cases slot : nicSlot pg o d v with
    | some i => exact nicSlot_wf slot
    | none =>
      have low : 1 ≤ o.toNat := Nat.one_le_iff_ne_zero.mpr fun h => zero (BitVec.eq_of_toNat_eq h)
      have empty := (nicSlot_eq_none_iff pg o d v).mp slot
      exact (wf_nicInvalid ..).mpr ⟨(invalidSlot_iff ..).mpr (.inr ⟨low, register, rfl, empty⟩), data⟩

theorem decodeNic_dataPort_in {w : Width} (narrow : w ≠ .w4) (pg : BitVec 2) (v : Byte) :
    decodeNic 0x10 pg .input w v = .nicDataIn w :=
  if_neg narrow

theorem decodeNic_dataPort_out {w : Width} (narrow : w ≠ .w4) (pg : BitVec 2) (v : Byte) :
    decodeNic 0x10 pg .output w v = .nicDataOut w v :=
  if_neg narrow

theorem decodeNic_wf (o : BitVec 5) (pg : BitVec 2) {d : Dir} (w : Width) {v : Byte} (data : d.dataOk v = true) :
    (decodeNic o pg d w v).wf = true := by
  unfold decodeNic
  split
  · next register =>
    split
    · exact decodeNicRegister_wf register pg data
    · next wide => exact (wf_nicBadwidth ..).mpr ⟨(badWidthSlot_iff ..).mpr (.inl ⟨register, wide⟩), data⟩
  · split
    · next dataPort =>
      split
      · next w4 => exact (wf_nicBadwidth ..).mpr ⟨(badWidthSlot_iff ..).mpr (.inr ⟨dataPort, w4⟩), data⟩
      · next narrow => cases d <;> exact bne_iff_ne.mpr narrow
    · split
      · cases d <;> rfl
      · exact (wf_nicInvalid ..).mpr ⟨(invalidSlot_iff ..).mpr (.inl (by omega)), data⟩

/-! ## The other devices (R148 step 3) -/

theorem decodeDevice_external {dev : Option Device} (h : dev.map deviceIsExternal = some true) (f : PioFields) (d : Dir)
    (w : Width) (v : Byte) : decodeDevice dev f d w v = .busExt f.port d w v := by
  rcases dev with _ | dev
  · cases h
  · cases dev with
    | picMaster | picSlave | nic => cases h
    | pit | keyboard | rtc | com1 => rfl

theorem decodeDevice_wf {dev : Option Device} {f : PioFields} (device : busDevice portMap f.port = dev) {d : Dir}
    (w : Width) {v : Byte} (data : d.dataOk v = true) : (decodeDevice dev f d w v).wf = true := by
  rcases dev with _ | dev
  · exact (wf_busUnmapped ..).mpr ⟨device, data⟩
  · cases dev with
    | picMaster => exact decodePic_wf .master f.c _ w data
    | picSlave => exact decodePic_wf .slave f.c _ w data
    | nic => exact decodeNic_wf _ f.pg w data
    | pit | keyboard | rtc | com1 => exact (wf_busExt ..).mpr ⟨congrArg _ device, data⟩

theorem decodePio_reserved {f : PioFields} (bus : List BusRange) (width : widthOfCode f.w = none) :
    decodePio bus f = .error .widthCode := by
  unfold decodePio
  rw [width]

theorem decodePio_wf {f : PioFields} {i : Instr} (h : decodePio portMap f = .ok i) : i.wf = true := by
  cases width : widthOfCode f.w with
  | none => cases (decodePio_reserved portMap width).symm.trans h
  | some w =>
    obtain ⟨v, data, -, decoded⟩ := decodePio_of_width portMap width
    cases decoded.symm.trans h
    exact decodeDevice_wf rfl w data

/-! ## Events (R144, R145) -/

theorem decodeNoArg_ok {arg : BitVec 16} {i j : Instr} (h : decodeNoArg arg j = .ok i) : i = j := by
  unfold decodeNoArg at h
  split at h
  · cases h
    rfl
  · cases h

theorem decodeNoArg_error_iff (arg : BitVec 16) (i : Instr) : (∃ why, decodeNoArg arg i = .error why) ↔ arg ≠ 0 := by
  unfold decodeNoArg
  split <;> simp_all

theorem decodeEvent_wf {code : BitVec 4} {arg : BitVec 16} {i : Instr} (h : decodeEvent code arg = .ok i) :
    i.wf = true := by
  unfold decodeEvent at h
  split at h
  case h_1 | h_2 =>
    cases h
    rfl
  case h_8 => cases h
  all_goals
    rw [decodeNoArg_ok h]
    rfl

/-- An event is rejected for its code, or for an argument where its code takes none (R146). -/
theorem decodeEvent_error_iff (code : BitVec 4) (arg : BitVec 16) :
    (∃ why, decodeEvent code arg = .error why) ↔ 7 ≤ code.toNat ∨ (arg ≠ 0 ∧ code ≠ 0 ∧ code ≠ 1) := by
  have code0 : code = 0 ↔ code.toNat = 0 := BitVec.toNat_inj.symm
  have code1 : code = 1 ↔ code.toNat = 1 := BitVec.toNat_inj.symm
  rw [ne_eq code, ne_eq code, code0, code1]
  unfold decodeEvent
  split
  case h_1 | h_2 => simp [*]
  case h_8 =>
    have large : 7 ≤ code.toNat := by
      by_contra small
      interval_cases code.toNat <;> simp_all
    simp [large]
  all_goals simp [*, decodeNoArg_error_iff]

/-! ## The two formats (R140) -/

theorem decodeWith_of_pio {x : Descriptor} (bus : List BusRange) (format : x.getLsbD 31 = false) :
    decodeWith bus x = decodePio bus (pioFields x) := by
  unfold decodeWith
  rw [format]
  rfl

theorem decodeWith_of_evt {x : Descriptor} (bus : List BusRange) (format : x.getLsbD 31 = true) :
    decodeWith bus x = decodeEvt x := by
  unfold decodeWith
  rw [if_pos format]

theorem decodeEvt_wf {x : Descriptor} {i : Instr} (h : decodeEvt x = .ok i) : i.wf = true := by
  unfold decodeEvt at h
  split at h
  · exact decodeEvent_wf h
  · cases h

theorem widthOfCode_eq_none_iff (w : BitVec 2) : widthOfCode w = none ↔ w = 0b11 := by
  revert w
  decide

theorem decodePio_error_iff (bus : List BusRange) (f : PioFields) :
    (∃ why, decodePio bus f = .error why) ↔ f.w = 0b11 := by
  rw [← widthOfCode_eq_none_iff]
  cases width : widthOfCode f.w with
  | none => simp [decodePio_reserved bus width]
  | some w =>
    obtain ⟨v, -, -, decoded⟩ := decodePio_of_width bus width
    simp [decoded]

theorem decodeEvt_error_iff (x : Descriptor) :
    (∃ why, decodeEvt x = .error why) ↔
      (x.extractLsb' 24 7 ≠ 0 ∨ x.extractLsb' 16 4 ≠ 0) ∨ 7 ≤ (x.extractLsb' 20 4).toNat ∨
        (x.extractLsb' 0 16 ≠ 0 ∧ x.extractLsb' 20 4 ≠ 0 ∧ x.extractLsb' 20 4 ≠ 1) := by
  unfold decodeEvt
  split
  · next zero =>
    obtain ⟨high, low⟩ := zero
    rw [decodeEvent_error_iff, high, low]
    simp
  · next nonzero => exact iff_of_true ⟨_, rfl⟩ (.inl (not_and_or.mp nonzero))

/-! ## The filled descriptor (R143) -/

/-- Bits 18:0 of a descriptor are its width code, direction and port (R142). -/
theorem extractLsb'_access (x : Descriptor) :
    x.extractLsb' 0 19 = (pioFields x).w ++ ((pioFields x).d ++ (pioFields x).port) := by
  unfold pioFields
  rw [BitVec.extractLsb'_append_extractLsb'_eq_extractLsb' (by rfl)]
  rw [BitVec.extractLsb'_append_extractLsb'_eq_extractLsb' (by rfl)]

theorem filledFields_c (s : State) (m : Move) :
    (filledFields s m).c =
      if m.x.extractLsb' 0 16 &&& 0xFF7E = 0x0020 then (if m.x.getLsbD 7 then s.slave.counter else s.master.counter)
      else 0 := by
  have chip : (s.chip (chipOfPort (m.x.extractLsb' 0 16))).counter =
      if m.x.getLsbD 7 then s.slave.counter else s.master.counter := by
    have bit7 : (m.x.extractLsb' 0 16).getLsbD 7 = m.x.getLsbD 7 := by simp
    unfold chipOfPort
    rw [bit7]
    split <;> rfl
  simp only [filledFields, pioFields, isPicPort, beq_iff_eq, chip]

theorem filledFields_pg (s : State) (m : Move) :
    (filledFields s m).pg =
      if m.x.extractLsb' 0 16 &&& 0xFFE0 = 0x0300 then s.nic.cr.extractLsb' 6 2 else 0 := by
  simp only [filledFields, pioFields, isNicPort, beq_iff_eq, Nic.page]

theorem filledFields_v (s : State) (m : Move) :
    (filledFields s m).v = if m.x.getLsbD 16 then m.bytes.b0 else 0 := by
  have dir := dirOfBit_pioFields m.x
  cases out : m.x.getLsbD 16 with
  | true =>
    rw [out] at dir
    exact filledFields_v_of_output s dir
  | false =>
    rw [out] at dir
    exact filledFields_v_of_input s dir

/-! ## The statements -/

/-- Settles O6: the fields of the filled descriptor are the filled fields. -/
theorem filledDescriptor : Obligations.FilledDescriptor := by
  intro s m format
  rw [fillDescriptor_of_pio s format]
  have fields : pioFields (pioWord (filledFields s m)) = filledFields s m := pioFields_pioWord _
  refine ⟨pioWord_format _, ?_, ?_, ?_, ?_⟩
  · exact (congrArg PioFields.c fields).trans (filledFields_c s m)
  · exact (congrArg PioFields.v fields).trans (filledFields_v s m)
  · exact (congrArg PioFields.pg fields).trans (filledFields_pg s m)
  · rw [extractLsb'_access, extractLsb'_access, fields]
    rfl

/-- Settles O3, one format at a time. -/
theorem rejectedIffReserved : Obligations.RejectedIffReserved := by
  intro x
  unfold decode
  cases format : x.getLsbD 31 with
  | false =>
    rw [decodeWith_of_pio portMap format, decodePio_error_iff]
    simp [pioFields]
  | true =>
    rw [decodeWith_of_evt portMap format, decodeEvt_error_iff]
    simp

/-- Settles O2, one format at a time. -/
theorem decodedIsWellFormed : Obligations.DecodedIsWellFormed := by
  intro x i h
  unfold decode at h
  cases format : x.getLsbD 31 with
  | false =>
    rw [decodeWith_of_pio portMap format] at h
    exact decodePio_wf h
  | true =>
    rw [decodeWith_of_evt portMap format] at h
    exact decodeEvt_wf h

/-- Settles O1, by the form of the instruction: the encoder's word is a port access or an event, the access lemma of its
device gives the decode map that reads it, and that map at these operands gives back the instruction. -/
theorem decodeEncodeRoundTrip : Obligations.DecodeEncodeRoundTrip := by
  intro c pg i wf
  cases i with
  | picIcw1 chip v | picOcw2EoiSpec chip v | picOcw2Eoi chip v | picOcw2Nop chip v | picOcw3 chip v =>
    exact (decode_encodePicOut c pg chip .command v).trans (congrArg _ (decodePicCommand_of_wf rfl wf))
  | picIcw2 chip v | picIcw3 chip v | picIcw4 chip v | picImrW chip v => exact decode_encodePicOut _ pg chip .data v
  | picDataR chip => exact decode_encodePicIn c pg chip .data
  | picCmdR chip => exact decode_encodePicIn c pg chip .command
  | picWide chip p d w v =>
    obtain ⟨wide, data⟩ := (wf_picWide chip p d w v).mp wf
    rw [encodeAt, decode_picAccess c pg chip p w data, decodePic_wide wide]
  | nicCrR | nicBnryR | nicIsrR | nicCurrR | nicPstartR | nicPstopR | nicTpsrR | nicRcrR | nicTcrR | nicDcrR
  | nicImrR =>
    exact decode_encodeNicIn c _ _
  | nicCrW v | nicPstartW v | nicPstopW v | nicBnryW v | nicTpsrW v | nicTbcr0W v | nicTbcr1W v | nicIsrW v
  | nicRsar0W v | nicRsar1W v | nicRbcr0W v | nicRbcr1W v | nicRcrW v | nicTcrW v | nicDcrW v | nicImrW v
  | nicCurrW v =>
    exact decode_encodeNicOut c _ _ v
  | nicParR k | nicMarR k => fin_cases k <;> exact decode_encodeNicIn c 1 _
  | nicParW k v | nicMarW k v => fin_cases k <;> exact decode_encodeNicOut c 1 _ v
  | nicInvalid o p d w v =>
    obtain ⟨invalid, data⟩ := (wf_nicInvalid o p d w v).mp wf
    rw [encodeAt, decode_nicAccess c p o w data, decodeNic_of_invalidSlot invalid]
  | nicDataIn w =>
    exact (decode_nicAccess c pg 0x10 w (d := .input) rfl).trans
      (congrArg _ (decodeNic_dataPort_in (bne_iff_ne.mp wf) pg 0))
  | nicDataOut w v =>
    exact (decode_nicAccess c pg 0x10 w (d := .output) rfl).trans
      (congrArg _ (decodeNic_dataPort_out (bne_iff_ne.mp wf) pg v))
  | nicBadwidth o d w v =>
    obtain ⟨badWidth, data⟩ := (wf_nicBadwidth o d w v).mp wf
    rw [encodeAt, decode_nicAccess c pg o w data, decodeNic_of_badWidthSlot badWidth]
  | nicResetW w v => exact decode_nicAccess c pg 0x1F w (d := .output) rfl
  | nicResetR w => exact decode_nicAccess c pg 0x1F w (d := .input) rfl
  | busExt port d w v =>
    obtain ⟨external, data⟩ := (wf_busExt port d w v).mp wf
    rw [encodeAt, decode_access c pg port w data, decodeDevice_external external]
  | busUnmapped port d w v =>
    obtain ⟨unmapped, data⟩ := (wf_busUnmapped port d w v).mp wf
    rw [encodeAt, decode_access c pg port w data, unmapped]
    rfl
  | picRaise line | picLower line => exact decodeWith_evtWord portMap _ line
  | picPending | picAck | nicRxPoll | nicRxDeliver | sysPowerOn => exact decodeWith_evtWord portMap _ 0

end Sys2Proof.Machine

/-!
PROOFS. Accesses that reach no device of the block (40_iobus.md). Both BUS instructions are one draw reply, so what the
statement says of an IN and of an OUT is said once, of that reply.
-/

namespace Sys2Proof.Machine

/-! ## The reply of drawn bytes (R7, R182) -/

@[simp] theorem State.length_drawnBytes (s : State) (n : Nat) : (s.drawnBytes n).length = n := by
  simp [State.drawnBytes]

theorem State.drawReply_input (s : State) (w : Width) (r : StepResult) :
    s.drawReply .input w r =
      { s with d := s.drawnBytes (widthBytes w), draws := s.draws + widthBytes w, result := r } := rfl

/-- The drawn bytes stand behind `∃`: a statement can fix how many an IN returns, but not their values. -/
theorem State.exists_bytes_drawReply_input (s : State) (w : Width) (r : StepResult) :
    ∃ b : List Byte, b.length = widthBytes w ∧
      Host.Outcome.next (s.drawReply .input w r) =
        (.next { s with d := b, draws := s.draws + widthBytes w, result := r } : Out) :=
  ⟨s.drawnBytes (widthBytes w), s.length_drawnBytes _, congrArg _ (s.drawReply_input w r)⟩

/-! ## Unmapped ports and external devices (R181 to R183) -/

theorem exec_busUnmapped (port : Port) (d : Dir) (w : Width) (v : Byte) (s : State) :
    exec (.busUnmapped port d w v) s = .next (s.drawReply d w (.error .unhandledPort)) := rfl

theorem exec_busExt (port : Port) (d : Dir) (w : Width) (v : Byte) (s : State) :
    exec (.busExt port d w v) s =
      .next (s.drawReply d w (if s.answers.extOk then .ok else .error .externalDevice)) := rfl

/-- Settles O52: an IN is the draw reply, and an OUT gives its result and nothing else. -/
theorem accessesOutsideTheBlock : Obligations.AccessesOutsideTheBlock := by
  intro port w v s
  simp only [exec_busUnmapped, exec_busExt, State.drawReply_output]
  exact ⟨s.exists_bytes_drawReply_input w _, rfl, s.exists_bytes_drawReply_input w _, rfl⟩

end Sys2Proof.Machine

/-!
PROOFS. The PIC command port and data port (41_pic_ports.md): which instruction an access of a PIC port is, the meaning of
each as an equation on the whole next state, and what an end of interrupt does to both chips.
-/

namespace Sys2Proof.Machine

/-! ## Which instruction a PIC access is (30_encoding.md R149, R158) -/

/-- The `v` of an IN is not read (R158), so an IN decodes as if it were 0. -/
theorem decode_input_v (c pg w : BitVec 2) (v : Byte) (port : Port) :
    decode (pioWord ⟨c, v, pg, w, 0, port⟩) = decode (pioWord ⟨c, 0, pg, w, 0, port⟩) := by
  unfold decode
  rw [decodeWith_pioWord, decodeWith_pioWord]
  rfl

theorem decode_picIn (c pg : BitVec 2) (chip : Chip) (p : PicPort) (w : Width) (v : Byte) :
    decode (pioWord ⟨c, v, pg, codeOfWidth w, 0, picPortNumber chip p⟩) = .ok (decodePic chip c p .input w 0) := by
  rw [decode_input_v]
  exact decode_picAccess c pg chip p w (d := .input) rfl

theorem decode_picOut (c pg : BitVec 2) (chip : Chip) (p : PicPort) (w : Width) (v : Byte) :
    decode (pioWord ⟨c, v, pg, codeOfWidth w, 1, picPortNumber chip p⟩) = .ok (decodePic chip c p .output w v) :=
  decode_picAccess c pg chip p w (d := .output) rfl

/-- The command byte with the two tests of an EOI joined, as 41_pic_ports.md R201 writes them. -/
theorem decodePicCommand_eq (chip : Chip) (v : Byte) :
    decodePicCommand chip v =
      if v.getLsbD 4 then .picIcw1 chip v
      else if v.getLsbD 3 then .picOcw3 chip v
      else if v.getLsbD 5 && v.getLsbD 6 then .picOcw2EoiSpec chip v
      else if v.getLsbD 5 then .picOcw2Eoi chip v
      else .picOcw2Nop chip v := by
  unfold decodePicCommand
  cases v.getLsbD 5 with
  | false => rfl
  | true => cases v.getLsbD 6 <;> rfl

/-! ## The meanings, one equation for each instruction (41_pic_ports.md R200 to R212) -/

section Meanings
variable (c : Chip) (v : Byte) (s : State)

theorem exec_picIcw1 : exec (.picIcw1 c v) s = .next ((s.withChip c ((s.chip c).icw1 v)).returning .ok) := rfl

theorem exec_picOcw2EoiSpec :
    exec (.picOcw2EoiSpec c v) s = .next ((picEndOfInterrupt c (v.extractLsb' 0 3).toNat s).returning .ok) := rfl

theorem exec_picOcw2Nop : exec (.picOcw2Nop c v) s = .next (s.returning .ok) := rfl

theorem exec_picOcw3 : exec (.picOcw3 c v) s = .next ((s.withChip c ((s.chip c).ocw3 v)).returning .ok) := rfl

theorem exec_picIcw2 :
    exec (.picIcw2 c v) s = .next
      ((s.withChip c { s.chip c with offset := v, counter := (s.chip c).counterAfterIcw2 }).returning .ok) := rfl

theorem exec_picIcw3 :
    exec (.picIcw3 c v) s = .next
      ((s.withChip c { s.chip c with counter := if (s.chip c).needIcw4 then 3 else 0 }).returning .ok) := rfl

theorem exec_picIcw4 :
    exec (.picIcw4 c v) s = .next
      ((s.withChip c { s.chip c with aeoi := v.getLsbD 1, sfnm := v.getLsbD 4, counter := 0 }).returning .ok) := rfl

theorem exec_picImrW : exec (.picImrW c v) s = .next ((s.withChip c { s.chip c with imr := v }).returning .ok) := rfl

theorem exec_picDataR : exec (.picDataR c) s = .next (s.reply [(s.chip c).imr]) := rfl

theorem exec_picCmdR : exec (.picCmdR c) s = .next (s.reply [(s.chip c).selected]) := rfl

theorem exec_picWide (p : PicPort) (d : Dir) (w : Width) : exec (.picWide c p d w v) s = .fault .picWideAccess := rfl

end Meanings

/-- An OCW3 writes the read selector alone (R205). -/
theorem PicChip.ocw3_eq (p : PicChip) (v : Byte) :
    p.ocw3 v = { p with readSel := if v.getLsbD 1 then (if v.getLsbD 0 then .isr else .irr) else p.readSel } := by
  unfold PicChip.ocw3
  split <;> rfl

theorem PicChip.selected_eq (p : PicChip) : p.selected = if p.readSel = .irr then p.irr else p.isr := by
  unfold PicChip.selected
  cases p.readSel <;> rfl

/-- The counter is written by the four initialization words and by power-on alone (10_state.md R33). -/
theorem ChipStep.counter_cases {c : Chip} {p q : PicChip} {i : Instr} (h : ChipStep c p i q) :
    q.counter = p.counter ∨
      (∃ v, i = .picIcw1 c v ∨ i = .picIcw2 c v ∨ i = .picIcw3 c v ∨ i = .picIcw4 c v) ∨ i = .sysPowerOn := by
  cases h with
  | requests | imrW | eoi | ack => exact .inl rfl
  | ocw3 v => exact .inl (p.ocw3_counter v)
  | icw1 v => exact .inr (.inl ⟨v, .inl rfl⟩)
  | icw2 v => exact .inr (.inl ⟨v, .inr (.inl rfl)⟩)
  | icw3 v => exact .inr (.inl ⟨v, .inr (.inr (.inl rfl))⟩)
  | icw4 v => exact .inr (.inl ⟨v, .inr (.inr (.inr rfl))⟩)
  | powerOn irr => exact .inr (.inr rfl)

/-! ## End of interrupt (41_pic_ports.md R202, R203, R213) -/

theorem lowestSet_eq_some_iff_isLowestSet {b : Byte} {i : Nat} : lowestSet b = some i ↔ IsLowestSet b i :=
  lowestSet_eq_some

theorem PicChip.nonspecificEoi_of_isr_zero {p : PicChip} (h : p.isr = 0) : p.nonspecificEoi = p := by
  unfold PicChip.nonspecificEoi
  rw [lowestSet_eq_none.mpr h]

theorem PicChip.nonspecificEoi_of_isLowestSet {p : PicChip} {i : Nat} (h : IsLowestSet p.isr i) :
    p.nonspecificEoi = p.endService i := by
  unfold PicChip.nonspecificEoi
  rw [lowestSet_eq_some_iff_isLowestSet.mpr h]

/-- On the master an EOI of the cascade line is forwarded to the slave (R213). -/
theorem picEndOfInterrupt_master (i : Nat) (s : State) :
    picEndOfInterrupt .master i s =
      { s with
        master := s.master.endService i
        slave := if i = 2 then s.slave.nonspecificEoi else s.slave } := by
  by_cases h : i = 2 <;> simp [picEndOfInterrupt, cascadeLine, h]

theorem picEndOfInterrupt_slave (i : Nat) (s : State) :
    picEndOfInterrupt .slave i s = { s with slave := s.slave.endService i } := rfl

theorem exec_picOcw2Eoi_of_isr_zero {c : Chip} {s : State} (h : (s.chip c).isr = 0) (v : Byte) :
    exec (.picOcw2Eoi c v) s = .next (s.returning .ok) := by
  rw [exec_picOcw2Eoi, execPicOcw2Eoi, lowestSet_eq_none.mpr h]

theorem exec_picOcw2Eoi_of_isLowestSet {c : Chip} {s : State} {i : Nat} (h : IsLowestSet (s.chip c).isr i) (v : Byte) :
    exec (.picOcw2Eoi c v) s = .next ((picEndOfInterrupt c i s).returning .ok) := by
  rw [exec_picOcw2Eoi, execPicOcw2Eoi, lowestSet_eq_some_iff_isLowestSet.mpr h]

/-! ## The statements -/

/-- Settles O5: OCW2 and OCW3 are not among the instructions that write a counter. -/
theorem commandByteDecode : Obligations.CommandByteDecode := by
  constructor
  · intro chip c pg v
    rw [← decodePicCommand_eq]
    exact decode_picOut c pg chip .command .w1 v
  · rintro chip other v s t (h | h | h | h) <;> simpa using (exec_chipStep h other).counter_cases

/-- Settles O13: the fields ICW1 writes are those of `PicChip.icw1`. -/
theorem icw1Effect : Obligations.Icw1Effect := exec_picIcw1

/-- Settles O14: the end of service on the addressed chip, and on the master the forwarded EOI. -/
theorem specificEoi : Obligations.SpecificEoi := by
  refine ⟨fun v s => ?_, fun v s => ?_, fun _ => PicChip.nonspecificEoi_of_isr_zero,
    fun _ _ => PicChip.nonspecificEoi_of_isLowestSet⟩
  · rw [exec_picOcw2EoiSpec, picEndOfInterrupt_master]
    rfl
  · rw [exec_picOcw2EoiSpec, picEndOfInterrupt_slave]
    rfl

/-- Settles O15: with a bit in service the non-specific EOI is the end of interrupt of the lowest one. -/
theorem nonspecificEoi : Obligations.NonspecificEoi := by
  intro c v s
  refine ⟨fun idle => exec_picOcw2Eoi_of_isr_zero idle v, fun i lowest => ?_⟩
  rw [exec_picOcw2Eoi_of_isLowestSet lowest]
  cases c with
  | master =>
    rw [picEndOfInterrupt_master]
    rfl
  | slave =>
    rw [picEndOfInterrupt_slave]
    rfl

/-- Settles O16: neither instruction reaches the other chip, and of its own an OCW3 writes `readSel`. -/
theorem commandsWithoutEoi : Obligations.CommandsWithoutEoi := by
  intro c v s
  rw [← PicChip.ocw3_eq]
  exact ⟨exec_picOcw2Nop c v s, exec_picOcw3 c v s⟩

/-- Settles O17: the counter after ICW2 is read off the two mode flags. -/
theorem dataPortWords : Obligations.DataPortWords := by
  constructor
  · intro c counter pg v
    rw [← decodePicData_eq]
    exact decode_picOut counter pg c .data .w1 v
  · intro c v s
    refine ⟨?_, exec_picIcw3 c v s, exec_picIcw4 c v s, exec_picImrW c v s⟩
    rw [exec_picIcw2, PicChip.counterAfterIcw2]
    cases (s.chip c).single <;> cases (s.chip c).needIcw4 <;> rfl

/-- Settles O18: a read decodes by its port alone and writes the buffer alone. -/
theorem picPortReads : Obligations.PicPortReads := by
  constructor
  · intro c counter pg v
    exact ⟨decode_picIn counter pg c .data .w1 v, decode_picIn counter pg c .command .w1 v⟩
  · intro c s
    rw [← PicChip.selected_eq]
    exact ⟨exec_picDataR c s, exec_picCmdR c s⟩

/-- Settles O19: the decode map sends both wide widths to PIC.WIDE, in either direction. -/
theorem widePicAccessFaults : Obligations.WidePicAccessFaults := by
  constructor
  · intro c p counter pg v
    exact ⟨decode_picIn counter pg c p .w2 v, decode_picIn counter pg c p .w4 v, decode_picOut counter pg c p .w2 v,
      decode_picOut counter pg c p .w4 v⟩
  · intro c p d w v s
    exact exec_picWide c v s p d w

end Sys2Proof.Machine

/-!
PROOFS. The PIC's four calls (42_pic_lines.md): what `raise` and `lower` do to each chip as one equation, the two scans over
the candidates, and `acquire-vector` in each of its three cases.
-/

namespace Sys2Proof.Machine

/-! ## The meanings (R240, R241, R244, R246) -/

theorem exec_picRaise (line : BitVec 16) (s : State) :
    exec (.picRaise line) s = .next ((picRaise line.toNat s).returning .done) := rfl

theorem exec_picLower (line : BitVec 16) (s : State) :
    exec (.picLower line) s = .next ((picLower line.toNat s).returning .done) := rfl

theorem exec_picPending (s : State) : exec .picPending s = .next (s.returning (.pending (picPendingAnswer s))) := rfl

theorem exec_picAck (s : State) :
    exec .picAck s = .next ((acquireVector s).2.returning (.vector (acquireVector s).1)) := rfl

/-! ## Raise and lower on each chip (R240, R241) -/

theorem raisedMaster_eq (line : Nat) (m l : PicChip) :
    raisedMaster line m l =
      { m with
        irr :=
          if line < 8 ∧ m.imr.getLsbD line = false then m.irr ||| bit line
          else if 8 ≤ line ∧ line < 16 ∧ l.imr.getLsbD (line - 8) = false ∧ m.imr.getLsbD 2 = false then m.irr ||| bit 2
          else m.irr } := by
  unfold raisedMaster PicChip.request cascadeLine
  by_cases onMaster : line < 8
  · have notSlave : ¬ 8 ≤ line := by omega
    cases m.imr.getLsbD line <;> simp [onMaster, notSlave]
  · by_cases onSlave : line < 16
    · have fromEight : 8 ≤ line := by omega
      cases l.imr.getLsbD (line - 8) <;> cases m.imr.getLsbD 2 <;> simp [onMaster, onSlave, fromEight]
    · simp [onMaster, onSlave]

theorem raisedSlave_eq (line : Nat) (l : PicChip) :
    raisedSlave line l =
      { l with
        irr :=
          if 8 ≤ line ∧ line < 16 ∧ l.imr.getLsbD (line - 8) = false then l.irr ||| bit (line - 8) else l.irr } := by
  unfold raisedSlave PicChip.request
  by_cases onMaster : line < 8
  · have notSlave : ¬ 8 ≤ line := by omega
    simp [onMaster, notSlave]
  · by_cases onSlave : line < 16
    · have fromEight : 8 ≤ line := by omega
      cases l.imr.getLsbD (line - 8) <;> simp [onMaster, onSlave, fromEight]
    · simp [onMaster, onSlave]

theorem loweredMaster_eq (line : Nat) (m : PicChip) :
    loweredMaster line m =
      { m with
        irr :=
          if line < 8 then m.irr &&& ~~~(bit line) else if line < 16 then m.irr &&& ~~~(bit 2) else m.irr } := by
  unfold loweredMaster PicChip.withdraw cascadeLine
  split
  · rfl
  · split <;> rfl

theorem loweredSlave_eq (line : Nat) (l : PicChip) :
    loweredSlave line l =
      { l with irr := if 8 ≤ line ∧ line < 16 then l.irr &&& ~~~(bit (line - 8)) else l.irr } := by
  unfold loweredSlave PicChip.withdraw
  by_cases onMaster : line < 8
  · have notSlave : ¬ 8 ≤ line := by omega
    simp [onMaster, notSlave]
  · have fromEight : 8 ≤ line := by omega
    by_cases onSlave : line < 16 <;> simp [onMaster, onSlave, fromEight]

/-! ## A repeated raise (R242) -/

/-- A raise reads the two masks, which it does not write, and setting a bit twice is setting it once. -/
theorem raisedMaster_raisedMaster (line : Nat) (m l : PicChip) :
    raisedMaster line (raisedMaster line m l) (raisedSlave line l) = raisedMaster line m l := by
  simp only [raisedMaster_eq, raisedSlave_eq]
  split
  · simp only [BitVec.or_assoc, BitVec.or_self]
  · split
    · simp only [BitVec.or_assoc, BitVec.or_self]
    · rfl

theorem raisedSlave_raisedSlave (line : Nat) (l : PicChip) :
    raisedSlave line (raisedSlave line l) = raisedSlave line l := by
  simp only [raisedSlave_eq]
  split
  · simp only [BitVec.or_assoc, BitVec.or_self]
  · rfl

theorem picRaise_picRaise (line : Nat) (s : State) : picRaise line (picRaise line s) = picRaise line s := by
  simp only [picRaise_eq, raisedMaster_raisedMaster, raisedSlave_raisedSlave]

theorem picRaise_returning (line : Nat) (s : State) (r : StepResult) :
    picRaise line (s.returning r) = (picRaise line s).returning r := by
  simp only [picRaise_eq]
  rfl

/-! ## Candidates (R243) and the two scans (R245) -/

theorem PicChip.cand_iff {p : PicChip} {i : Nat} : p.cand i = true ↔ p.Candidate i := by
  simp [PicChip.cand, PicChip.Candidate, and_assoc]

theorem PicChip.not_candidate_of_isr {p : PicChip} {i : Nat} (h : p.isr.getLsbD i = true) : ¬ p.Candidate i :=
  fun ⟨_, _, idle⟩ => by simp [h] at idle

theorem mem_slaveLines {j : Nat} : j ∈ slaveLines ↔ j < 8 := by
  simp only [slaveLines, List.mem_cons, List.not_mem_nil, or_false]
  omega

theorem masterLines_rising : masterLines.Pairwise (· < ·) := by decide

theorem slaveLines_rising : slaveLines.Pairwise (· < ·) := by decide

/-- In a rising list the scan stops at the least line that passes. -/
theorem find?_eq_some_of_least {lines : List Nat} (rising : lines.Pairwise (· < ·)) {f : Nat → Bool} {i : Nat}
    (mem : i ∈ lines) (passes : f i = true) (least : ∀ k ∈ lines, k < i → ¬ f k = true) : lines.find? f = some i := by
  induction lines with
  | nil => cases mem
  | cons x xs ih =>
    obtain ⟨before, rising⟩ := List.pairwise_cons.mp rising
    rcases List.mem_cons.mp mem with rfl | mem
    · exact List.find?_cons_of_pos passes
    · rw [List.find?_cons_of_neg (least x List.mem_cons_self (before i mem))]
      exact ih rising mem fun k hk => least k (List.mem_cons_of_mem x hk)

theorem find?_masterLines_of_least {p : PicChip} {i : Nat} (mem : i ∈ masterLines) (candidate : p.Candidate i)
    (least : ∀ k ∈ masterLines, k < i → ¬ p.Candidate k) : masterLines.find? p.cand = some i :=
  find?_eq_some_of_least masterLines_rising mem (PicChip.cand_iff.mpr candidate) fun k hk lt =>
    mt PicChip.cand_iff.mp (least k hk lt)

theorem find?_slaveLines_of_least {p : PicChip} {j : Nat} (lt : j < 8) (candidate : p.Candidate j)
    (least : ∀ k, k < j → ¬ p.Candidate k) : slaveLines.find? p.cand = some j :=
  find?_eq_some_of_least slaveLines_rising (mem_slaveLines.mpr lt) (PicChip.cand_iff.mpr candidate) fun k _ lt =>
    mt PicChip.cand_iff.mp (least k lt)

theorem find?_masterLines_eq_none {p : PicChip} :
    masterLines.find? p.cand = none ↔ ∀ i ∈ masterLines, ¬ p.Candidate i := by
  simp only [List.find?_eq_none, PicChip.cand_iff]

theorem find?_slaveLines_eq_none {p : PicChip} : slaveLines.find? p.cand = none ↔ ∀ j, j < 8 → ¬ p.Candidate j := by
  simp only [List.find?_eq_none, PicChip.cand_iff, mem_slaveLines]

/-! ## `acquire-vector` (R246) and `pending?` (R244) -/

theorem acquireVector_of_master {s : State} {i : Nat} (first : masterLines.find? s.master.cand = some i) :
    acquireVector s = (some (s.master.vectorOf i), { s with master := s.master.acknowledge i }) := by
  unfold acquireVector
  rw [first]

theorem acquireVector_of_slave {s : State} {j : Nat} (noMaster : masterLines.find? s.master.cand = none)
    (cascade : s.master.Candidate 2) (first : slaveLines.find? s.slave.cand = some j) :
    acquireVector s = (some (s.slave.vectorOf j),
      { s with
        slave := s.slave.acknowledge j
        master := s.master.acknowledgeCascade ((s.slave.acknowledge j).irr == 0) }) := by
  have open2 : s.master.cand cascadeLine = true := PicChip.cand_iff.mpr cascade
  unfold acquireVector
  rw [noMaster, first]
  exact if_pos open2

theorem acquireVector_of_none {s : State} (noMaster : ∀ i ∈ masterLines, ¬ s.master.Candidate i)
    (noSlave : ¬ s.master.Candidate 2 ∨ ∀ j, j < 8 → ¬ s.slave.Candidate j) : acquireVector s = (none, s) := by
  rw [← find?_slaveLines_eq_none] at noSlave
  rcases acquireVector_cases s with ⟨i, first, _⟩ | ⟨j, _, cascade, first, _⟩ | ⟨_, _, e⟩
  · rw [find?_masterLines_eq_none.mpr noMaster] at first
    cases first
  · rcases noSlave with closed | empty
    · exact absurd (PicChip.cand_iff.mp cascade) closed
    · rw [empty] at first
      cases first
  · exact e

theorem PicChip.vectorOf_eq (p : PicChip) (i : Nat) : p.vectorOf i = BitVec.ofNat 8 ((p.offset.toNat + i) % 256) := by
  apply BitVec.eq_of_toNat_eq
  simp [PicChip.vectorOf]

theorem picPendingAnswer_iff (s : State) :
    picPendingAnswer s = true ↔
      (∃ i ∈ masterLines, s.master.Candidate i) ∨ (s.master.Candidate 2 ∧ ∃ j < 8, s.slave.Candidate j) := by
  simp only [picPendingAnswer, cascadeLine, Bool.or_eq_true, Bool.and_eq_true, List.any_eq_true, PicChip.cand_iff,
    mem_slaveLines]

/-- The two calls run the same scans (R248). -/
theorem picPendingAnswer_eq_isSome (s : State) : picPendingAnswer s = (acquireVector s).1.isSome := by
  unfold picPendingAnswer cascadeLine
  rw [← List.isSome_find?, ← List.isSome_find?]
  rcases acquireVector_cases s with ⟨i, first, e⟩ | ⟨j, noMaster, cascade, first, e⟩ | ⟨noMaster, noSlave, e⟩
  · rw [e, first]
    rfl
  · rw [e, noMaster, cascade, first]
    rfl
  · rw [e, noMaster]
    rcases noSlave with closed | empty
    · rw [closed]
      rfl
    · rw [empty, Option.isSome_none, Bool.and_false]
      rfl

theorem acquireVector_slave_of_isr {s : State} (serving : s.master.isr.getLsbD 2 = true) :
    (acquireVector s).2.slave = s.slave := by
  rcases acquireVector_cases s with ⟨_, _, e⟩ | ⟨_, _, cascade, _, _⟩ | ⟨_, _, e⟩
  · rw [e]
  · exact absurd (PicChip.cand_iff.mp cascade) (PicChip.not_candidate_of_isr serving)
  · rw [e]

/-! ## Raising the cascade line (R250) -/

theorem picRaise_cascade_master_candidate {s : State} {i : Nat} (other : i ≠ 2) :
    (picRaise 2 s).master.Candidate i ↔ s.master.Candidate i := by
  simp [PicChip.Candidate, picRaise_master_irr, other]

theorem picRaise_cascade_slave (s : State) : (picRaise 2 s).slave = s.slave := by
  rw [picRaise_eq]
  rfl

theorem ne_two_of_mem_masterLines : ∀ i ∈ masterLines, i ≠ 2 := by decide

/-! ## The statements -/

/-- Settles O20: the request bit each chip gains. -/
theorem raiseEffect : Obligations.RaiseEffect := by
  intro line s
  rw [exec_picRaise, picRaise_eq, raisedMaster_eq, raisedSlave_eq]
  rfl

/-- Settles O21: the request bit each chip loses. -/
theorem lowerEffect : Obligations.LowerEffect := by
  intro line s
  rw [exec_picLower, picLower_eq, loweredMaster_eq, loweredSlave_eq]
  rfl

/-- Settles O22: the lists the two scans run over are those of the statement. -/
theorem pendingAnswer : Obligations.PendingAnswer := fun s =>
  ⟨picPendingAnswer s, exec_picPending s, picPendingAnswer_iff s⟩

/-- Settles O23: each hypothesis fixes the outcome of the two scans, and with it the case of `acquire-vector`. -/
theorem acknowledgeProcedure : Obligations.AcknowledgeProcedure := by
  intro s
  refine ⟨fun i mem candidate least => ?_, fun j noMaster cascade lt candidate least => ?_, fun noMaster noSlave => ?_⟩
  · rw [exec_picAck, acquireVector_of_master (find?_masterLines_of_least mem candidate least), PicChip.vectorOf_eq,
      PicChip.acknowledge_eq]
    rfl
  · rw [exec_picAck, acquireVector_of_slave (find?_masterLines_eq_none.mpr noMaster) cascade
      (find?_slaveLines_of_least lt candidate least), PicChip.vectorOf_eq, PicChip.acknowledgeCascade_eq,
      PicChip.acknowledge_eq]
    simp only [beq_iff_eq]
    rfl
  · rw [exec_picAck, acquireVector_of_none noMaster noSlave]
    rfl

/-- Settles O24: the answer of `pending?` is whether `acquire-vector` has a vector. -/
theorem pendingIffVector : Obligations.PendingIffVector := by
  intro s
  refine ⟨picPendingAnswer s, (acquireVector s).1, _, exec_picPending s, exec_picAck s, rfl, ?_⟩
  rw [picPendingAnswer_eq_isSome, Option.isSome_iff_ne_none]

/-- Settles O25: a line in service is no candidate, so the slave is not reached. -/
theorem slaveBlockedInService : Obligations.SlaveBlockedInService := fun s serving =>
  ⟨_, exec_picAck s, acquireVector_slave_of_isr serving⟩

/-- Settles O26: the raise makes a candidate of the cascade line at most, and the slave has none to deliver. -/
theorem loneCascadeRaise : Obligations.LoneCascadeRaise := by
  intro s noMaster noSlave
  have noVector : acquireVector ((picRaise 2 s).returning .done) = (none, (picRaise 2 s).returning .done) := by
    apply acquireVector_of_none
    · intro i mem
      exact mt (picRaise_cascade_master_candidate (ne_two_of_mem_masterLines i mem)).mp (noMaster i mem)
    · rw [State.returning_slave, picRaise_cascade_slave]
      exact .inr noSlave
  have raised : exec (.picRaise 2) s = .next ((picRaise 2 s).returning .done) := exec_picRaise 2 s
  refine ⟨_, raised, ?_, ?_⟩
  · rw [exec_picPending, picPendingAnswer_eq_isSome, noVector]
    rfl
  · rw [exec_picAck, noVector]
    rfl

/-- Settles O27: `raise` is idempotent. -/
theorem repeatedRaiseCoalesces : Obligations.RepeatedRaiseCoalesces := by
  intro line s
  refine ⟨_, exec_picRaise line s, ?_⟩
  rw [exec_picRaise, picRaise_returning, picRaise_picRaise]
  rfl

end Sys2Proof.Machine

/-!
PROOFS. The NE2000 register file (43_ne2000_regs.md): which instruction an access of a register slot is, the error report
of the accesses that reach no register, the NIC reset, and the line that ISR and IMR writes drive.
-/

namespace Sys2Proof.Machine

/-! ## Which instruction a register access is (30_encoding.md R154, 10_state.md R50) -/

theorem nicReadSlot_range {pg : BitVec 2} {o : BitVec 5} {i : Instr} (slot : nicReadSlot pg o = some i) :
    1 ≤ o.toNat ∧ o.toNat ≤ 0x0F := by
  unfold nicReadSlot at slot
  split at slot
  case h_25 => cases slot
  all_goals omega

theorem nicWriteSlot_range {pg : BitVec 2} {o : BitVec 5} {v : Byte} {i : Instr}
    (slot : nicWriteSlot pg o v = some i) : 1 ≤ o.toNat ∧ o.toNat ≤ 0x0F := by
  unfold nicWriteSlot at slot
  split at slot
  case h_31 => cases slot
  all_goals omega

theorem nicSlot_range {pg : BitVec 2} {o : BitVec 5} {d : Dir} {v : Byte} {i : Instr}
    (slot : nicSlot pg o d v = some i) : 1 ≤ o.toNat ∧ o.toNat ≤ 0x0F := by
  cases d with
  | input => exact nicReadSlot_range slot
  | output => exact nicWriteSlot_range slot

theorem decodeNic_of_slot {pg : BitVec 2} {o : BitVec 5} {d : Dir} {v : Byte} {i : Instr}
    (slot : nicSlot pg o d v = some i) : decodeNic o pg d .w1 v = i := by
  obtain ⟨low, high⟩ := nicSlot_range slot
  have nonzero : o ≠ 0 := by rintro rfl; exact absurd low (by decide)
  unfold decodeNic
  rw [if_pos high, if_pos rfl, decodeNicRegister_of_ne_zero nonzero, slot, Option.getD_some]

theorem decode_nicIn (c pg : BitVec 2) (o : BitVec 5) (w : Width) (v : Byte) :
    decode (pioWord ⟨c, v, pg, codeOfWidth w, 0, nicPortNumber o⟩) = .ok (decodeNic o pg .input w 0) := by
  rw [decode_input_v]
  exact decode_nicAccess c pg o w (d := .input) rfl

theorem decode_nicRead (c : BitVec 2) (v : Byte) {pg : BitVec 2} {o : BitVec 5} {i : Instr}
    (slot : nicReadSlot pg o = some i) : decode (pioWord ⟨c, v, pg, 0, 0, nicPortNumber o⟩) = .ok i :=
  (decode_nicIn c pg o .w1 v).trans (congrArg _ (decodeNic_of_slot (d := .input) slot))

theorem decode_nicWrite (c : BitVec 2) {v : Byte} {pg : BitVec 2} {o : BitVec 5} {i : Instr}
    (slot : nicWriteSlot pg o v = some i) : decode (pioWord ⟨c, v, pg, 0, 1, nicPortNumber o⟩) = .ok i :=
  (decode_encodeNicOut c pg o v).trans (congrArg _ (decodeNic_of_slot (d := .output) slot))

theorem nicReadSlot_par (k : Fin 6) : nicReadSlot 1 (BitVec.ofNat 5 (0x01 + k.val)) = some (.nicParR k) := by
  revert k
  decide

theorem nicReadSlot_mar (k : Fin 8) : nicReadSlot 1 (BitVec.ofNat 5 (0x08 + k.val)) = some (.nicMarR k) := by
  revert k
  decide

/-! ## ISR and IMR writes and the line (R280, R301, R302) -/

theorem Nic.irqPending_eq_false_iff (n : Nic) : n.irqPending = false ↔ n.isr &&& n.imr = 0 := by
  simp [Nic.irqPending]

theorem lowerIfIdle_eq_ite (s : State) :
    lowerIfIdle s = if s.nic.isr &&& s.nic.imr = 0 then picLower s.params.nicIrqLine s else s := by
  unfold lowerIfIdle
  simp only [← Nic.irqPending_eq_false_iff]
  cases s.nic.irqPending <;> rfl

theorem irqFollow_eq_ite (s : State) :
    irqFollow s =
      if s.nic.isr &&& s.nic.imr = 0 then picLower s.params.nicIrqLine s else picRaise s.params.nicIrqLine s := by
  unfold irqFollow
  simp only [← Nic.irqPending_eq_false_iff]
  cases s.nic.irqPending <;> rfl

theorem picLower_returning (line : Nat) (s : State) (r : StepResult) :
    picLower line (s.returning r) = (picLower line s).returning r := by
  simp only [picLower_eq]
  rfl

theorem lowerIfIdle_returning (s : State) (r : StepResult) :
    lowerIfIdle (s.returning r) = (lowerIfIdle s).returning r := by
  simp only [lowerIfIdle_eq]
  rfl

theorem irqFollow_returning (s : State) (r : StepResult) : irqFollow (s.returning r) = (irqFollow s).returning r := by
  simp only [irqFollow_eq_ite, State.returning_nic, State.returning_params, picLower_returning, picRaise_returning]
  split <;> rfl

theorem exec_nicIsrW (v : Byte) (s : State) :
    exec (.nicIsrW v) s =
      .next (lowerIfIdle { s with nic := { s.nic with isr := s.nic.isr &&& ~~~v }, result := .ok }) :=
  congrArg _ (lowerIfIdle_returning _ .ok).symm

theorem exec_nicImrW (v : Byte) (s : State) :
    exec (.nicImrW v) s = .next (irqFollow { s with nic := { s.nic with imr := v }, result := .ok }) :=
  congrArg _ (irqFollow_returning _ .ok).symm

/-- With no unmasked cause left, both writes end in `lower` of the NIC's line. -/
theorem exec_statusWrite_of_idle {v : Byte} {s t : State}
    (write : exec (.nicIsrW v) s = .next t ∨ exec (.nicImrW v) s = .next t) (idle : t.nic.isr &&& t.nic.imr = 0) :
    ∃ u, t = picLower s.params.nicIrqLine u := by
  rcases write with h | h
  · rw [exec_nicIsrW] at h
    cases h
    rw [lowerIfIdle_nic] at idle
    exact ⟨_, (lowerIfIdle_eq_ite _).trans (if_pos idle)⟩
  · rw [exec_nicImrW] at h
    cases h
    rw [irqFollow_nic] at idle
    exact ⟨_, (irqFollow_eq_ite _).trans (if_pos idle)⟩

/-! ## The error report of an access that reaches no register (R304, R305, R307) -/

section Reports
variable (k : NicErrKind) (o : BitVec 5) (pg : BitVec 2) (d : Dir) (w : Width) (v : Byte) (s : State)

/-- The drawn bytes of an IN stand behind `∃`: a statement can fix how many there are, but not their values. -/
theorem exists_bytes_report_drawReply_input :
    ∃ b : List Byte, b.length = widthBytes w ∧
      report k (s.drawReply .input w .ok) =
        raiseIf (s.params.errIsr k)
          { s with
            nic := { s.nic with isr := s.nic.isr ||| s.params.errIsr k }
            d := b, draws := s.draws + widthBytes w, result := .ok } :=
  ⟨s.drawnBytes (widthBytes w), s.length_drawnBytes _, rfl⟩

theorem report_drawReply_output :
    report k (s.drawReply .output w .ok) =
      raiseIf (s.params.errIsr k)
        { s with nic := { s.nic with isr := s.nic.isr ||| s.params.errIsr k }, result := .ok } := rfl

theorem exec_nicInvalid :
    exec (.nicInvalid o pg d w v) s = .next (report .invalidRegister (s.drawReply d w .ok)) := rfl

theorem exec_nicBadwidth : exec (.nicBadwidth o d w v) s = .next (report .badWidth (s.drawReply d w .ok)) := rfl

theorem exec_nicResetR : exec (.nicResetR w) s = .next (s.drawReply .input w .ok) := rfl

end Reports

/-- The widths the data port refuses: 4, and 2 outside word mode (44_ne2000_cr_dma_tx.md R342). -/
theorem Nic.dmaWidthOk_eq_false_iff (n : Nic) (w : Width) :
    n.dmaWidthOk w = false ↔ w = .w4 ∨ (w = .w2 ∧ n.dcr.getLsbD 0 = false) := by
  cases w <;> simp [Nic.dmaWidthOk, Nic.wordMode]

theorem exec_nicDataIn_of_width_refused {w : Width} {s : State} (refused : s.nic.dmaWidthOk w = false) :
    exec (.nicDataIn w) s = .next (report .badWidth (s.drawReply .input w .ok)) := by
  rw [exec_nicDataIn, execNicDataIn, refused]
  rfl

theorem exec_nicDataOut_of_width_refused {w : Width} {s : State} (refused : s.nic.dmaWidthOk w = false) (v : Byte) :
    exec (.nicDataOut w v) s = .next (report .badWidth (s.drawReply .output w .ok)) := by
  rw [exec_nicDataOut, execNicDataOut, refused]
  rfl

/-! ## The NIC reset (70_reset_and_hazards.md R471, R472) -/

theorem exec_nicResetW (w : Width) (v : Byte) (s : State) :
    exec (.nicResetW w v) s = .next ((nicReset s).returning .ok) := rfl

/-- The MAC stands twice at the start of RAM (R471). -/
theorem Nic.afterReset_ramByte_mac (n : Nic) (p : Params) (k : Fin 6) :
    (n.afterReset p).ramByte k = p.mac[k] ∧ (n.afterReset p).ramByte (6 + k) = p.mac[k] := by
  have inside : ∀ x < 12, (n.afterReset p).ramByte x = (p.mac.toList ++ p.mac.toList).getD x 0 := by
    intro x small
    exact (n.ramByte_writeRun 0 _ x).trans (if_pos (by simpa using small))
  rw [inside k (by omega), inside (6 + k) (by omega)]
  constructor
  · rw [List.getD_append _ _ _ _ (by simp)]
    simp
  · rw [List.getD_append_right _ _ _ _ (by simp)]
    simp

/-- A NIC reset is the new NIC and a `lower` of its line (R472). -/
theorem nicReset_returning (s : State) (r : StepResult) :
    (nicReset s).returning r =
      picLower s.params.nicIrqLine { s with nic := s.nic.afterReset s.params, result := r } :=
  (picLower_returning _ _ r).symm

/-! ## The statements -/

/-- Settles O12: the register list is `Nic.afterReset`, and RAM splits at the twelve bytes of the MAC. -/
theorem nicResetWrite : Obligations.NicResetWrite := by
  intro w v s
  have nic : ((nicReset s).returning .ok).nic = s.nic.afterReset s.params := nicReset_nic s
  refine ⟨_, exec_nicResetW w v s, ?_⟩
  rw [nic]
  exact ⟨rfl, s.nic.afterReset_ramByte_mac s.params, fun _ => s.nic.afterReset_ramByte_of_le s.params,
    nicReset_returning s .ok⟩

/-- Settles O32: the write ends in `lower`, which clears the line's request bit, and a slave line's cascade bit too. -/
theorem lineLowWhenIdle : Obligations.LineLowWhenIdle := by
  intro v s t write idle
  obtain ⟨u, rfl⟩ := exec_statusWrite_of_idle write idle
  refine ⟨fun onMaster => ?_, fun fromEight onSlave => ⟨?_, ?_⟩⟩
  · rw [picLower_master_irr]
    simp [onMaster]
  · rw [picLower_slave_irr]
    simp [fromEight, onSlave]
  · rw [picLower_master_irr]
    simp [fromEight, onSlave]

/-- Settles O28: each slot of the register map holds its read, and each read replies with its register. -/
theorem nicRegisterReads : Obligations.NicRegisterReads := by
  refine ⟨fun c v => ?_, fun s => ?_⟩
  · exact ⟨decode_nicRead c v rfl, decode_nicRead c v rfl, decode_nicRead c v rfl, decode_nicRead c v rfl,
      decode_nicRead c v rfl, decode_nicRead c v rfl, decode_nicRead c v rfl, decode_nicRead c v rfl,
      decode_nicRead c v rfl, decode_nicRead c v rfl, fun k => decode_nicRead c v (nicReadSlot_par k),
      fun k => decode_nicRead c v (nicReadSlot_mar k)⟩
  · exact ⟨rfl, rfl, rfl, rfl, rfl, rfl, rfl, rfl, rfl, rfl, rfl, fun _ => rfl, fun _ => rfl⟩

/-- Settles O29: each slot of the register map holds its write, each write stores into its register, and the write-only
offsets are invalid slots of an IN. -/
theorem nicRingAndDmaWrites : Obligations.NicRingAndDmaWrites := by
  refine ⟨fun c v => ?_, fun v s => ?_, fun c v o mem => ?_⟩
  · exact ⟨decode_nicWrite c rfl, decode_nicWrite c rfl, decode_nicWrite c rfl, decode_nicWrite c rfl,
      decode_nicWrite c rfl, decode_nicWrite c rfl, decode_nicWrite c rfl, decode_nicWrite c rfl,
      decode_nicWrite c rfl, decode_nicWrite c rfl⟩
  · exact ⟨rfl, rfl, rfl, rfl, rfl, rfl, rfl, rfl, rfl, rfl⟩
  · have invalid : ∀ o ∈ ([0x05, 0x06, 0x08, 0x09, 0x0A, 0x0B] : List (BitVec 5)),
        invalidSlot o 0 .input .w1 = true := by decide
    exact (decode_nicIn c 0 o .w1 v).trans (congrArg _ (decodeNic_of_invalidSlot (invalid o mem) 0))

/-- Settles O31: both writes store first, and the line is then driven by the stored ISR and IMR. -/
theorem statusAndMaskWrites : Obligations.StatusAndMaskWrites := by
  refine ⟨fun c v => ⟨decode_nicWrite c rfl, decode_nicWrite c rfl⟩, fun v s => ⟨?_, ?_⟩⟩
  · rw [exec_nicIsrW, lowerIfIdle_eq_ite]
  · rw [exec_nicImrW, irqFollow_eq_ite]

/-- Settles O33: every such access is the draw reply under its report, the data port's refused widths included. -/
theorem openByteAccesses : Obligations.OpenByteAccesses := by
  refine ⟨fun o pg w v s => ⟨?_, ?_, ?_, ?_⟩, fun w s => s.exists_bytes_drawReply_input w .ok⟩
  · obtain ⟨b, length, reported⟩ := exists_bytes_report_drawReply_input .invalidRegister w s
    exact ⟨b, length, by rw [exec_nicInvalid, reported]⟩
  · rw [exec_nicInvalid, report_drawReply_output]
  · obtain ⟨b, length, reported⟩ := exists_bytes_report_drawReply_input .badWidth w s
    refine ⟨b, length, ?_⟩
    rintro i (rfl | ⟨rfl, refused⟩)
    · rw [exec_nicBadwidth, reported]
    · rw [exec_nicDataIn_of_width_refused ((s.nic.dmaWidthOk_eq_false_iff w).mpr refused), reported]
  · rintro i (rfl | ⟨rfl, refused⟩)
    · rw [exec_nicBadwidth, report_drawReply_output]
    · rw [exec_nicDataOut_of_width_refused ((s.nic.dmaWidthOk_eq_false_iff w).mpr refused), report_drawReply_output]

end Sys2Proof.Machine

/-!
PROOFS. The NE2000 command register, transmit and remote DMA (44_ne2000_cr_dma_tx.md): each step of a CR write and each end
of a data-port access as one update under its PIC calls, and when the data port is armed.
-/

namespace Sys2Proof.Machine

/-! ## PIC calls and the updates after them (20_memory.md R110) -/

/-- A `raise_if` reads of the NIC its IMR alone, so an update of the NIC after it may as well come before it. -/
theorem signal_then_nic (b : Byte) (s : State) {f : Nic → Nic} (imr : ∀ n : Nic, (f n).imr = n.imr) :
    { signal b s with nic := f (signal b s).nic } =
      raiseIf b { s with nic := f { s.nic with isr := s.nic.isr ||| b } } := by
  rw [signal_nic]
  simp only [signal, raiseIf_eq, imr]

theorem raiseIf_returning (b : Byte) (s : State) (r : StepResult) :
    raiseIf b (s.returning r) = (raiseIf b s).returning r := by
  simp only [raiseIf_eq]
  rfl

theorem ite_picLower_eq (c : Prop) [Decidable c] (line : Nat) (s : State) :
    (if c then picLower line s else s) =
      { s with
        master := if c then loweredMaster line s.master else s.master
        slave := if c then loweredSlave line s.slave else s.slave } := by
  rw [picLower_eq]
  split <;> rfl

/-! ## The steps of a CR write (R340) -/

/-- CR after a write, in the bit positions of R51. -/
theorem crAfter_eq (v : Byte) :
    crAfter v = v &&& 0xF8 ||| (if v.getLsbD 0 then 0x01 else if v.getLsbD 1 then 0x02 else 0x00) := by
  revert v
  decide

theorem crAfter_stp (v : Byte) : (crAfter v).getLsbD 0 = v.getLsbD 0 := by
  revert v
  decide

theorem crAfter_sta {v : Byte} (running : v.getLsbD 0 = false) : (crAfter v).getLsbD 1 = v.getLsbD 1 := by
  revert v
  decide

/-- The progress counter is cleared after the `raise_if`, which does not read it. -/
theorem crStop_eq (s : State) :
    crStop s = raiseIf 0x80 { s with nic := { s.nic with isr := s.nic.isr ||| 0x80, dmaProgress := 0 } } :=
  signal_then_nic isrRst s (f := fun n => { n with dmaProgress := 0 }) fun _ => rfl

theorem crStart_eq (s : State) :
    crStart s =
      if s.nic.isr &&& 0x7F &&& s.nic.imr = 0 then
        picLower s.params.nicIrqLine { s with nic := { s.nic with isr := s.nic.isr &&& 0x7F } }
      else { s with nic := { s.nic with isr := s.nic.isr &&& 0x7F } } :=
  lowerIfIdle_eq_ite _

@[simp] theorem crStart_nic (s : State) : (crStart s).nic = { s.nic with isr := s.nic.isr &&& 0x7F } :=
  lowerIfIdle_nic _

/-- The NIC after a remote-DMA command while it is not stopped (R341). -/
def Nic.afterCommand (rd : BitVec 3) (n : Nic) : Nic :=
  { n with
    dmaArmed := if rd = 0b100 then false else if rd = 0b000 then n.dmaArmed else true
    dmaProgress := if rd = 0b100 then 0 else n.dmaProgress }

theorem rdCommand_of_stopped {s : State} (stopped : s.nic.cr.getLsbD 0 = true) (rd : BitVec 3) : rdCommand rd s = s :=
  if_pos stopped

theorem rdCommand_of_running {s : State} (running : s.nic.cr.getLsbD 0 = false) (rd : BitVec 3) :
    rdCommand rd s = { s with nic := s.nic.afterCommand rd } := by
  unfold rdCommand Nic.afterCommand
  rw [running, if_neg Bool.false_ne_true]
  split
  · rfl
  · split <;> rfl

/-- The remote-DMA command of a CR write without STP sees the CR that write has stored. -/
theorem rdCommand_of_crAfter {v : Byte} {s : State} (running : v.getLsbD 0 = false) (cr : s.nic.cr = crAfter v) :
    rdCommand (v.extractLsb' 3 3) s = { s with nic := s.nic.afterCommand (v.extractLsb' 3 3) } :=
  rdCommand_of_running (by rw [cr, crAfter_stp, running]) _

/-! ## A CR write by its STP and STA bits (R340) -/

/-- Step 1: PS and RD are stored and TXP, STP and STA take their new values. -/
def storeCr (v : Byte) (s : State) : State := { s with nic := { s.nic with cr := crAfter v } }

theorem exec_nicCrW (v : Byte) (s : State) : exec (.nicCrW v) s = .next ((crWrite v s).returning .ok) := rfl

theorem crWrite_of_stop {v : Byte} (stop : v.getLsbD 0 = true) (s : State) :
    crWrite v s = crStop (storeCr v s) := by
  have stopped : (crStop (storeCr v s)).nic.cr.getLsbD 0 = true := by
    rw [crStop_eq, raiseIf_nic]
    exact (crAfter_stp v).trans stop
  have silent : (crStop (storeCr v s)).nic.started = false := by rw [Nic.started, stopped, Bool.not_true, Bool.and_false]
  calc crWrite v s
    _ = rdCommand (v.extractLsb' 3 3)
          (if v.getLsbD 2 && (crStop (storeCr v s)).nic.started then transmit (crStop (storeCr v s))
          else crStop (storeCr v s)) := by
        unfold crWrite
        rw [stop, Bool.not_true, Bool.and_false]
        rfl
    _ = crStop (storeCr v s) := by
        rw [silent, Bool.and_false]
        exact rdCommand_of_stopped stopped _

theorem crWrite_of_no_start {v : Byte} (running : v.getLsbD 0 = false) (idle : v.getLsbD 1 = false) (s : State) :
    crWrite v s = rdCommand (v.extractLsb' 3 3) (storeCr v s) := by
  have silent : (storeCr v s).nic.started = false := by
    rw [Nic.started, storeCr, crAfter_sta running, idle, Bool.false_and]
  calc crWrite v s
    _ = rdCommand (v.extractLsb' 3 3)
          (if v.getLsbD 2 && (storeCr v s).nic.started then transmit (storeCr v s) else storeCr v s) := by
        unfold crWrite
        rw [running, idle]
        rfl
    _ = rdCommand (v.extractLsb' 3 3) (storeCr v s) := by
        rw [silent, Bool.and_false]
        rfl

theorem crWrite_of_start {v : Byte} (running : v.getLsbD 0 = false) (start : v.getLsbD 1 = true) (s : State) :
    crWrite v s =
      rdCommand (v.extractLsb' 3 3)
        (if v.getLsbD 2 then transmit (crStart (storeCr v s)) else crStart (storeCr v s)) := by
  have transmits : (crStart (storeCr v s)).nic.started = true := by
    rw [Nic.started, crStart_nic, storeCr, crAfter_sta running, crAfter_stp, running, start]
    rfl
  calc crWrite v s
    _ = rdCommand (v.extractLsb' 3 3)
          (if v.getLsbD 2 && (crStart (storeCr v s)).nic.started then transmit (crStart (storeCr v s))
          else crStart (storeCr v s)) := by
        unfold crWrite
        rw [running, start]
        rfl
    _ = _ := by rw [transmits, Bool.and_true]

/-! ## Transmit (R350) -/

theorem Nic.txFits_iff (n : Nic) :
    n.txFits = true ↔
      60 ≤ n.tbcr1.toNat * 256 + n.tbcr0.toNat ∧ n.tbcr1.toNat * 256 + n.tbcr0.toNat ≤ 1514 ∧
        n.tpsr.toNat * 256 + (n.tbcr1.toNat * 256 + n.tbcr0.toNat) ≤ 65536 := by
  simp only [Nic.txFits, Bool.and_eq_true, decide_eq_true_iff, and_assoc]
  rfl

theorem Nic.length_txFrame (n : Nic) : n.txFrame.length = n.tbcr1.toNat * 256 + n.tbcr0.toNat :=
  n.memRead_length n.txBase n.txCount

theorem Nic.txFrame_getElem? (n : Nic) {k : Nat} (h : k < n.txFrame.length) :
    n.txFrame[k]? = some (n.ramByte (n.tpsr.toNat * 256 + k)) := by
  have inside : k < n.txCount := h.trans_eq (n.memRead_length n.txBase n.txCount)
  simp [Nic.txFrame, Nic.memRead, Nic.txBase, pageAddr, inside]

theorem transmit_of_fits {s : State} (fits : s.nic.txFits = true) :
    transmit s =
      signal (if s.answers.hostWriteOk then 0x02 else 0x08)
        { s with hostWrites := s.hostWrites ++ [⟨s.nic.txFrame, s.answers.hostWriteOk⟩] } :=
  if_pos fits

theorem transmit_of_not_fits {s : State} (fails : ¬ s.nic.txFits = true) : transmit s = signal 0x08 s :=
  if_neg fails

/-! ## A START and its PIC calls (R340 steps 3 to 5) -/

/-- What a START with command byte `v` leaves, its PIC calls apart, when NIC.ISR ends as `isr` and the frames handed to the
host as `frames`. -/
def State.afterStart (s : State) (v isr : Byte) (frames : List HostWrite) : State :=
  { s with
    nic := ({ s.nic with cr := v &&& 0xF8 ||| 0x02, isr := isr } : Nic).afterCommand (v.extractLsb' 3 3)
    hostWrites := frames
    result := .ok }

section Start
variable {v : Byte} (running : v.getLsbD 0 = false) (start : v.getLsbD 1 = true) (s : State)
include running start

theorem crAfter_of_start : crAfter v = v &&& 0xF8 ||| 0x02 := by
  rw [crAfter_eq, running, start]
  rfl

theorem exec_nicCrW_of_start (silent : v.getLsbD 2 = false) :
    exec (.nicCrW v) s = .next
      (if s.nic.isr &&& 0x7F &&& s.nic.imr = 0 then
        picLower s.params.nicIrqLine (s.afterStart v (s.nic.isr &&& 0x7F) s.hostWrites)
      else s.afterStart v (s.nic.isr &&& 0x7F) s.hostWrites) := by
  rw [exec_nicCrW, crWrite_of_start running start, silent, if_neg Bool.false_ne_true,
    rdCommand_of_crAfter running (by rw [crStart_nic]; rfl), crStart_eq, ite_picLower_eq, ite_picLower_eq,
    State.afterStart, ← crAfter_of_start running start]
  rfl

/-- The remote-DMA command after a transmit reads nothing the transmit writes, so its effect may stand before the PIC calls
of the START and of the transmit. -/
theorem exec_nicCrW_of_transmit (txp : v.getLsbD 2 = true) {done : Byte} {frames : List HostWrite}
    (sent : transmit (crStart (storeCr v s)) = signal done { crStart (storeCr v s) with hostWrites := frames }) :
    exec (.nicCrW v) s = .next
      (raiseIf done
        (if s.nic.isr &&& 0x7F &&& s.nic.imr = 0 then
          picLower s.params.nicIrqLine (s.afterStart v (s.nic.isr &&& 0x7F ||| done) frames)
        else s.afterStart v (s.nic.isr &&& 0x7F ||| done) frames)) := by
  rw [exec_nicCrW, crWrite_of_start running start, if_pos txp, sent,
    rdCommand_of_crAfter running (by rw [signal_nic, crStart_nic]; rfl),
    signal_then_nic _ _ (f := Nic.afterCommand _) fun _ => rfl, ← raiseIf_returning, crStart_eq, ite_picLower_eq,
    ite_picLower_eq, State.afterStart, ← crAfter_of_start running start]
  rfl

end Start

/-- The transmit of a START reads the frame's place and length and RAM as they were before the write. -/
theorem txFits_crStart_storeCr (v : Byte) (s : State) : (crStart (storeCr v s)).nic.txFits = s.nic.txFits := by
  rw [crStart_nic]
  rfl

theorem txFrame_crStart_storeCr (v : Byte) (s : State) : (crStart (storeCr v s)).nic.txFrame = s.nic.txFrame := by
  rw [crStart_nic]
  rfl

theorem transmit_crStart_of_fits (v : Byte) {s : State} (fits : s.nic.txFits = true) :
    transmit (crStart (storeCr v s)) =
      signal (if s.answers.hostWriteOk then 0x02 else 0x08)
        { crStart (storeCr v s) with
          hostWrites := s.hostWrites ++ [⟨s.nic.txFrame, s.answers.hostWriteOk⟩] } := by
  rw [transmit_of_fits ((txFits_crStart_storeCr v s).trans fits), txFrame_crStart_storeCr]
  simp only [crStart, lowerIfIdle_answers, lowerIfIdle_hostWrites]
  rfl

theorem transmit_crStart_of_not_fits (v : Byte) {s : State} (fails : ¬ s.nic.txFits = true) :
    transmit (crStart (storeCr v s)) = signal 0x08 { crStart (storeCr v s) with hostWrites := s.hostWrites } := by
  have frames : (crStart (storeCr v s)).hostWrites = s.hostWrites := lowerIfIdle_hostWrites _
  rw [transmit_of_not_fits (by rwa [txFits_crStart_storeCr]), ← frames]

/-! ## The end of a data-port access (R342, R343, R345) -/

theorem dmaAdvance_eq (w : Width) (s : State) :
    dmaAdvance w s =
      if s.nic.dmaCount ≤ s.nic.dmaProgress + widthBytes w then
        raiseIf 0x40 { s with nic := { s.nic with isr := s.nic.isr ||| 0x40, dmaProgress := 0 } }
      else { s with nic := { s.nic with dmaProgress := s.nic.dmaProgress + widthBytes w } } :=
  if_congr Iff.rfl (signal_then_nic isrRdc _ (f := fun n => { n with dmaProgress := 0 }) fun _ => rfl) rfl

theorem dmaFail_eq (s : State) :
    dmaFail s =
      raiseIf (s.params.errIsr .dmaBounds)
        { s with
          nic := { s.nic with
            isr := s.nic.isr ||| s.params.errIsr .dmaBounds, dmaProgress := 0, dmaArmed := false } } :=
  signal_then_nic _ s (f := fun n => { n with dmaProgress := 0, dmaArmed := false }) fun _ => rfl

/-! ## A data-port access of an accepted width (R342, R344, R345) -/

/-- The widths the data port accepts: 1, and 2 in word mode. -/
theorem Nic.dmaWidthOk_iff (n : Nic) (w : Width) :
    n.dmaWidthOk w = true ↔ w = .w1 ∨ (w = .w2 ∧ n.dcr.getLsbD 0 = true) := by
  cases w <;> simp [Nic.dmaWidthOk, Nic.wordMode]

theorem Nic.dmaInRam_eq_false_iff (n : Nic) (w : Width) :
    n.dmaInRam w = false ↔ 65536 < n.dmaAddr + n.dmaProgress + widthBytes w := by
  rw [← Bool.not_eq_true, Nic.dmaInRam_iff, Nat.not_le]

section DataPort
variable {w : Width} {s : State} (accepted : w = .w1 ∨ (w = .w2 ∧ s.nic.dcr.getLsbD 0 = true))
include accepted

theorem exec_nicDataIn_of_unarmed (unarmed : s.nic.dmaArmed = false) :
    exec (.nicDataIn w) s = .fault .dataPortNotArmed := by
  rw [exec_nicDataIn, execNicDataIn, (s.nic.dmaWidthOk_iff w).mpr accepted, unarmed]
  rfl

theorem exec_nicDataOut_of_unarmed (unarmed : s.nic.dmaArmed = false) (v : Byte) :
    exec (.nicDataOut w v) s = .fault .dataPortNotArmed := by
  rw [exec_nicDataOut, execNicDataOut, (s.nic.dmaWidthOk_iff w).mpr accepted, unarmed]
  rfl

variable (armed : s.nic.dmaArmed = true)
include armed

theorem exec_nicDataIn_of_inRam (inRam : s.nic.dmaPos + widthBytes w ≤ 65536) :
    exec (.nicDataIn w) s = .next (dmaAdvance w (s.reply (s.nic.memRead s.nic.dmaPos (widthBytes w)))) := by
  rw [exec_nicDataIn, execNicDataIn, (s.nic.dmaWidthOk_iff w).mpr accepted, armed,
    (s.nic.dmaInRam_iff w).mpr inRam]
  rfl

theorem exec_nicDataOut_of_inRam (inRam : s.nic.dmaPos + widthBytes w ≤ 65536) (v : Byte) :
    exec (.nicDataOut w v) s = .next
      (dmaAdvance w
        (({ s with nic := { s.nic with ram := s.nic.ram.writeRun s.nic.dmaPos (s.outBytes w v) } } : State).returning
          .ok)) := by
  rw [exec_nicDataOut, execNicDataOut, (s.nic.dmaWidthOk_iff w).mpr accepted, armed,
    (s.nic.dmaInRam_iff w).mpr inRam]
  rfl

variable (outside : 65536 < s.nic.dmaPos + widthBytes w)
include outside

theorem exec_nicDataIn_of_outside :
    exec (.nicDataIn w) s = .next (dmaFail (s.reply (List.replicate (widthBytes w) 0xFF))) := by
  rw [exec_nicDataIn, execNicDataIn, (s.nic.dmaWidthOk_iff w).mpr accepted, armed,
    (s.nic.dmaInRam_eq_false_iff w).mpr outside]
  rfl

theorem exec_nicDataOut_of_outside (v : Byte) : exec (.nicDataOut w v) s = .next (dmaFail (s.returning .ok)) := by
  rw [exec_nicDataOut, execNicDataOut, (s.nic.dmaWidthOk_iff w).mpr accepted, armed,
    (s.nic.dmaInRam_eq_false_iff w).mpr outside]
  rfl

end DataPort

/-- The buffer of an OUT: the operand, then the bytes of D after it (30_encoding.md R142). -/
theorem State.outBytes_getD (s : State) (w : Width) (v : Byte) {k : Nat} (h : k < widthBytes w) :
    (s.outBytes w v).getD k 0 = if k = 0 then v else s.d.getD k 0 := by
  cases k with
  | zero => rfl
  | succ k =>
    have inside : k < widthBytes w - 1 := by omega
    simp [State.outBytes, inside]

theorem widthBytes_pos (w : Width) : 0 < widthBytes w := by cases w <;> decide

theorem dmaAdvance_ram (w : Width) (s : State) : (dmaAdvance w s).nic.ram = s.nic.ram := by
  rw [dmaAdvance_nic]
  split <;> rfl

/-- RAM after an OUT inside RAM, byte by byte (20_memory.md R106). -/
theorem ramByte_dmaAdvance_writeRun (w : Width) (v : Byte) (s : State) (x : Nat) :
    (dmaAdvance w
      (({ s with nic := { s.nic with ram := s.nic.ram.writeRun s.nic.dmaPos (s.outBytes w v) } } : State).returning
        .ok)).nic.ramByte x =
      if s.nic.dmaPos ≤ x ∧ x < s.nic.dmaPos + widthBytes w then (s.outBytes w v).getD (x - s.nic.dmaPos) 0
      else s.nic.ramByte x := by
  rw [dmaAdvance_ramByte, State.returning_nic, Nic.ramByte_writeRun, State.outBytes_length]

/-! ## When the data port is armed (R344) -/

/-- Of a CR write, the remote-DMA command alone reaches the arming, and a STOP has none (R340, R341). -/
theorem crWrite_dmaArmed (v : Byte) (s : State) :
    (crWrite v s).nic.dmaArmed =
      if v.getLsbD 0 then s.nic.dmaArmed
      else if v.extractLsb' 3 3 = 0b100 then false
      else if v.extractLsb' 3 3 = 0b000 then s.nic.dmaArmed else true := by
  cases stp : v.getLsbD 0 with
  | true =>
    rw [crWrite_of_stop stp, crStop_eq, raiseIf_nic]
    rfl
  | false =>
    cases sta : v.getLsbD 1 with
    | false =>
      rw [crWrite_of_no_start stp sta, rdCommand_of_crAfter stp rfl]
      rfl
    | true =>
      rw [crWrite_of_start stp sta]
      cases v.getLsbD 2 with
      | false =>
        rw [if_neg Bool.false_ne_true, rdCommand_of_crAfter stp (by rw [crStart_nic]; rfl), crStart_nic]
        rfl
      | true =>
        rw [if_pos rfl, rdCommand_of_crAfter stp (by rw [transmit_nic, crStart_nic]; rfl), transmit_nic, crStart_nic]
        rfl

/-- The instructions that may arm the port: a CR write without STP whose remote-DMA command is neither none nor abort
(R341). -/
def ArmsPort (i : Instr) : Prop :=
  ∃ v, i = .nicCrW v ∧ v.getLsbD 0 = false ∧ v.extractLsb' 3 3 ≠ 0b000 ∧ v.extractLsb' 3 3 ≠ 0b100

section Unarmed
variable {s t : State} (unarmed : s.nic.dmaArmed = false)
include unarmed

theorem crWrite_unarmed_or_arms (v : Byte) : (crWrite v s).nic.dmaArmed = false ∨ ArmsPort (.nicCrW v) := by
  rw [crWrite_dmaArmed, unarmed]
  split
  next => exact .inl rfl
  next running =>
    split
    next => exact .inl rfl
    next notAbort =>
      split
      next => exact .inl rfl
      next command => exact .inr ⟨v, rfl, Bool.eq_false_of_not_eq_true running, command, notAbort⟩

theorem exec_nicDataIn_unarmed {w : Width} (h : exec (.nicDataIn w) s = .next t) : t.nic.dmaArmed = false := by
  rcases exec_nicDataIn_cases w s with ⟨_, e⟩ | ⟨_, _, e⟩ | ⟨_, armed, _⟩ | ⟨_, armed, _⟩
  · rw [e] at h
    cases h
    rw [badWidthAccess_nic]
    exact unarmed
  · rw [e] at h
    cases h
  all_goals exact absurd (unarmed.symm.trans armed) Bool.false_ne_true

theorem exec_nicDataOut_unarmed {w : Width} {v : Byte} (h : exec (.nicDataOut w v) s = .next t) :
    t.nic.dmaArmed = false := by
  rcases exec_nicDataOut_cases w v s with ⟨_, e⟩ | ⟨_, _, e⟩ | ⟨_, armed, _⟩ | ⟨_, armed, _⟩
  · rw [e] at h
    cases h
    rw [badWidthAccess_nic]
    exact unarmed
  · rw [e] at h
    cases h
  all_goals exact absurd (unarmed.symm.trans armed) Bool.false_ne_true

theorem deliver_unarmed {packet : List Byte} (h : deliver packet s = .next t) : t.nic.dmaArmed = false := by
  rcases deliver_cases packet s with ⟨_, e⟩ | ⟨_, _, e⟩ | ⟨_, _, _, e⟩ | ⟨_, _, _, e⟩ <;> rw [e] at h <;> cases h
  · rw [signal_nic]
    exact unarmed
  · rw [signal_nic]
    exact unarmed
  · rw [ringCommit_nic]
    exact unarmed

theorem exec_nicRxPoll_unarmed (h : exec .nicRxPoll s = .next t) : t.nic.dmaArmed = false := by
  rcases exec_nicRxPoll_cases s with e | ⟨_, _, _, e⟩ | ⟨_, _, _, _, e⟩ <;> rw [e] at h <;> cases h
  · exact unarmed
  · rw [State.returning_nic, report_nic]
    exact unarmed
  · exact unarmed

theorem exec_nicRxDeliver_unarmed (h : exec .nicRxDeliver s = .next t) : t.nic.dmaArmed = false := by
  rcases exec_nicRxDeliver_cases s with ⟨_, e⟩ | ⟨_, _, _, _, e⟩ | ⟨_, _, _, e⟩ <;> rw [e] at h
  · cases h
    exact unarmed
  · cases h
    exact unarmed
  · exact deliver_unarmed (by exact unarmed) h

theorem exec_nic_unarmed_or_arms {i : Instr} (part : partOf i = .nic) (h : exec i s = .next t) :
    t.nic.dmaArmed = false ∨ ArmsPort i := by
  cases i with
  | nicPstartW v | nicPstopW v | nicBnryW v | nicTpsrW v | nicTbcr0W v | nicTbcr1W v | nicRsar0W v | nicRsar1W v
  | nicRbcr0W v | nicRbcr1W v | nicRcrW v | nicTcrW v | nicDcrW v | nicParW k v | nicCurrW v | nicMarW k v
  | nicCrR | nicBnryR | nicIsrR | nicParR k | nicCurrR | nicMarR k | nicPstartR | nicPstopR | nicTpsrR | nicRcrR
  | nicTcrR | nicDcrR | nicImrR | nicResetR w =>
    obtain rfl := Host.Outcome.next.inj h
    exact .inl unarmed
  | nicCrW v =>
    obtain rfl := Host.Outcome.next.inj h
    exact crWrite_unarmed_or_arms unarmed v
  | nicIsrW v =>
    obtain rfl := Host.Outcome.next.inj h
    rw [State.returning_nic, lowerIfIdle_nic]
    exact .inl unarmed
  | nicImrW v =>
    obtain rfl := Host.Outcome.next.inj h
    rw [State.returning_nic, irqFollow_nic]
    exact .inl unarmed
  | nicInvalid o pg d w v =>
    obtain rfl := Host.Outcome.next.inj h
    rw [report_nic, State.drawReply_nic]
    exact .inl unarmed
  | nicBadwidth o d w v =>
    obtain rfl := Host.Outcome.next.inj h
    rw [badWidthAccess_nic]
    exact .inl unarmed
  | nicResetW w v =>
    obtain rfl := Host.Outcome.next.inj h
    rw [State.returning_nic, nicReset_nic]
    exact .inl rfl
  | nicDataIn w => exact .inl (exec_nicDataIn_unarmed unarmed h)
  | nicDataOut w v => exact .inl (exec_nicDataOut_unarmed unarmed h)
  | nicRxPoll => exact .inl (exec_nicRxPoll_unarmed unarmed h)
  | nicRxDeliver => exact .inl (exec_nicRxDeliver_unarmed unarmed h)
  | _ => cases part

/-- From an unarmed port, every step leaves it unarmed or is one that may arm it. -/
theorem exec_unarmed_or_arms {i : Instr} (h : exec i s = .next t) : t.nic.dmaArmed = false ∨ ArmsPort i := by
  cases part : partOf i with
  | pic =>
    rw [(exec_pic_keepsOutsidePic part h).nic]
    exact .inl unarmed
  | nic => exact exec_nic_unarmed_or_arms unarmed part h
  | bus =>
    obtain ⟨⟨_, _, nic, _, _⟩, _⟩ := exec_bus_sameBlock part h
    rw [nic]
    exact .inl unarmed
  | construction =>
    cases i with
    | sysPowerOn =>
      obtain rfl := Host.Outcome.next.inj h
      rw [State.returning_nic, powerOn, State.useDraws_nic, nicReset_nic]
      exact .inl rfl
    | _ => cases part

end Unarmed

/-! ## The statements -/

/-- Settles O37: the checks of R350 pass, so the transmit hands over the frame and signals the host's answer. -/
theorem transmitSends : Obligations.TransmitSends := by
  intro v s running start txp low high bound
  have fits : s.nic.txFits = true := s.nic.txFits_iff.mpr ⟨low, high, bound⟩
  exact ⟨s.nic.txFrame, _, _, s.nic.length_txFrame, fun _ => s.nic.txFrame_getElem?, rfl, rfl,
    exec_nicCrW_of_transmit running start s txp (transmit_crStart_of_fits v fits)⟩

/-- Settles O38: a check of R350 fails, so the transmit signals TXE alone. -/
theorem transmitFails : Obligations.TransmitFails := by
  intro v s running start txp illegal
  have fails : ¬ s.nic.txFits = true := by
    rw [Nic.txFits_iff]
    omega
  exact ⟨_, rfl, exec_nicCrW_of_transmit running start s txp (transmit_crStart_of_not_fits v fails)⟩

/-- Settles O39: inside RAM an IN is the reply of `MemRead` under the advance of R342 and R343. -/
theorem dataPortRead : Obligations.DataPortRead := by
  rintro w s a accepted armed rfl inRam
  rw [exec_nicDataIn_of_inRam accepted armed inRam, dmaAdvance_eq]
  rfl

/-- Settles O40: inside RAM an OUT is the run of stores under the advance of R342 and R343, which reads no RAM. -/
theorem dataPortWrite : Obligations.DataPortWrite := by
  intro w v s a accepted armed place inRam
  obtain rfl : a = s.nic.dmaPos := place
  have stored := ramByte_dmaAdvance_writeRun w v s
  refine ⟨_, exec_nicDataOut_of_inRam accepted armed inRam v, ?_, ?_, ?_, ?_⟩
  · have positive := widthBytes_pos w
    rw [stored, if_pos (by omega), Nat.sub_self]
    rfl
  · intro k positive inside
    rw [stored, if_pos (by omega), Nat.add_sub_cancel_left, State.outBytes_getD s w v inside, if_neg (by omega)]
  · intro x outside
    rw [stored, if_neg (by omega)]
  · rw [dmaAdvance_ram, dmaAdvance_eq]
    rfl

/-- Settles O42: an unarmed access faults before any byte moves; reset, abort and failure disarm; a CR write alone arms. -/
theorem dataPortNotArmed : Obligations.DataPortNotArmed := by
  refine ⟨fun w v s accepted unarmed => ?_, rfl, ?_, ?_, ?_, ?_⟩
  · exact ⟨exec_nicDataIn_of_unarmed accepted unarmed, exec_nicDataOut_of_unarmed accepted unarmed v⟩
  · intro w v s t h
    rw [exec_nicResetW] at h
    cases h
    rw [State.returning_nic, nicReset_nic]
    rfl
  · intro v s t running abort h
    rw [exec_nicCrW] at h
    cases h
    rw [State.returning_nic, crWrite_dmaArmed, running, if_neg Bool.false_ne_true, if_pos abort]
  · intro w v s t accepted outside h
    cases armed : s.nic.dmaArmed with
    | false => exact h.elim (exec_nicDataIn_unarmed armed) (exec_nicDataOut_unarmed armed)
    | true =>
      rw [exec_nicDataIn_of_outside accepted armed outside, exec_nicDataOut_of_outside accepted armed outside] at h
      rcases h with h | h
      all_goals
        cases h
        rw [dmaFail_nic]
  · intro i s t h unarmed armed
    exact (exec_unarmed_or_arms unarmed h).resolve_left (by simp [armed])

/-- Settles O34: a STOP stores CR and stops, and the tests of steps 3 to 5 all fail. -/
theorem stopCommand : Obligations.StopCommand := by
  intro v s stop
  rw [exec_nicCrW, crWrite_of_stop stop, crStop_eq, ← raiseIf_returning, storeCr, crAfter_eq, stop]
  rfl

/-- Settles O35: with STP and STA clear, steps 2 to 4 do nothing. -/
theorem commandWithoutStart : Obligations.CommandWithoutStart := by
  intro v s running idle
  have cr : crAfter v = v &&& 0xF8 := by
    rw [crAfter_eq, running, idle]
    exact BitVec.or_zero
  rw [exec_nicCrW, crWrite_of_no_start running idle, rdCommand_of_crAfter running rfl, storeCr, cr]
  rfl

/-- Settles O36: the lower of step 3 and the command of step 5 commute, as `exec_nicCrW_of_start` says. -/
theorem startCommand : Obligations.StartCommand := fun _ s running start silent =>
  ⟨_, rfl, exec_nicCrW_of_start running start s silent⟩

/-- Settles O41: past the end of RAM both directions end in `dma_fail`. -/
theorem dataPortBoundsFailure : Obligations.DataPortBoundsFailure := by
  intro w v s accepted armed outside
  constructor
  · rw [exec_nicDataIn_of_outside accepted armed outside, dmaFail_eq]
    rfl
  · rw [exec_nicDataOut_of_outside accepted armed outside, dmaFail_eq]
    rfl

end Sys2Proof.Machine

/-!
PROOFS. The NE2000 ingress task and the receive ring (45_ne2000_rx.md): what a poll and a delivery do by the tests of their
rules, where the ring places the bytes of a packet, and what RAM holds after they are stored.
-/

namespace Sys2Proof.Machine

/-! ## The poll of the host (R390, R391) -/

theorem Nic.started_iff (n : Nic) : n.started = true ↔ n.cr.getLsbD 1 = true ∧ n.cr.getLsbD 0 = false := by
  simp [Nic.started]

theorem exec_nicRxPoll_of_idle {s : State} (idle : s.nic.rxHeld ≠ none ∨ ¬ s.nic.started = true) :
    exec .nicRxPoll s = .next (s.returning .done) := by
  rcases exec_nicRxPoll_cases s with e | ⟨empty, running, _, _⟩ | ⟨_, empty, running, _, _⟩
  · exact e
  all_goals exact absurd idle (by simp [empty, running])

/-- The state after a poll that reached the host, by the host's answer (R391). -/
def State.afterPoll (s : State) : HostRead → State
  | .noPacket => s.returning .done
  | .error => (report .hostRead s).returning .done
  | .packet bytes => ({ s with nic := { s.nic with rxHeld := some bytes } } : State).returning .done

theorem exec_nicRxPoll_of_running {s : State} (empty : s.nic.rxHeld = none) (running : s.nic.started = true) :
    exec .nicRxPoll s = .next (s.afterPoll s.answers.hostRead) := by
  rw [exec_nicRxPoll]
  unfold execNicRxPoll
  simp only [empty, running, if_true]
  cases s.answers.hostRead <;> rfl

theorem report_returning (k : NicErrKind) (s : State) (r : StepResult) :
    (report k s).returning r =
      raiseIf (s.params.errIsr k)
        { s with nic := { s.nic with isr := s.nic.isr ||| s.params.errIsr k }, result := r } :=
  (raiseIf_returning _ _ r).symm

/-! ## The ends of a delivery (R393 to R397) -/

/-- The state a held packet is delivered from: the slot is empty (R393), and the step gives nothing back. -/
def State.takePacket (s : State) : State :=
  ({ s with nic := { s.nic with rxHeld := none } } : State).returning .done

theorem exec_nicRxDeliver_of_empty {s : State} (empty : s.nic.rxHeld = none) :
    exec .nicRxDeliver s = .next (s.returning .done) := by
  rw [exec_nicRxDeliver, execNicRxDeliver, empty]

theorem exec_nicRxDeliver_of_stopped {s : State} {packet : List Byte} (held : s.nic.rxHeld = some packet)
    (recheck : s.answers.rxRecheck = true) (stopped : ¬ s.nic.started = true) :
    exec .nicRxDeliver s = .next s.takePacket := by
  rcases exec_nicRxDeliver_cases s with ⟨empty, _⟩ | ⟨_, _, _, _, e⟩ | ⟨_, _, goes, _⟩
  · simp [held] at empty
  · exact e
  · exact (goes.elim (by simp [recheck]) stopped).elim

/-- Nothing stops the delivery of a held packet when the recheck is not made or finds the NIC started (R393). -/
theorem exec_nicRxDeliver_of_held {s : State} {packet : List Byte} (held : s.nic.rxHeld = some packet)
    (goes : s.answers.rxRecheck = false ∨ s.nic.started = true) :
    exec .nicRxDeliver s = deliver packet s.takePacket := by
  rcases exec_nicRxDeliver_cases s with ⟨empty, _⟩ | ⟨_, _, recheck, stopped, _⟩ | ⟨packet', held', _, e⟩
  · simp [held] at empty
  · simp [recheck, stopped] at goes
  · obtain rfl : packet = packet' := Option.some.inj (held.symm.trans held')
    exact e

theorem Nic.ringOk_iff (n : Nic) (pages : Nat) :
    n.ringOk pages = true ↔ n.pstart.toNat < n.pstop.toNat ∧ n.pstart.toNat ≤ n.curr.toNat ∧
      n.curr.toNat < n.pstop.toNat ∧ pages < n.pstop.toNat - n.pstart.toNat := by
  simp only [Nic.ringOk, Bool.and_eq_true, decide_eq_true_eq, and_assoc]

section Ends
variable {packet : List Byte} {s : State}

theorem deliver_of_overlong (long : maxFrame < packet.length) : deliver packet s = .next (signal isrRxe s) := if_pos long

variable (short : packet.length ≤ maxFrame)
include short

theorem deliver_of_not_ringOk (bad : ¬ s.nic.ringOk (ringPages packet.length) = true) :
    deliver packet s = .fault .ringConfig := by
  rw [deliver, if_neg (by omega), if_pos (by simpa using bad)]

variable (ok : s.nic.ringOk (ringPages packet.length) = true)
include ok

theorem deliver_of_overflow (full : s.nic.ringNext (ringPages packet.length) = s.nic.bnry.toNat) :
    deliver packet s = .next (signal isrOvw s) := by
  rw [deliver, if_neg (by omega), if_neg (by simp [ok]), if_pos full]

theorem deliver_of_room (room : s.nic.ringNext (ringPages packet.length) ≠ s.nic.bnry.toNat) :
    deliver packet s = .next (ringCommit packet s) := by
  rw [deliver, if_neg (by omega), if_neg (by simp [ok]), if_neg room]

end Ends

/-- A delivery that completes leaves the ring registers alone, or has stored the held packet. -/
theorem exec_nicRxDeliver_keeps_or_stores {s t : State} (h : exec .nicRxDeliver s = .next t) :
    (t.nic.pstart = s.nic.pstart ∧ t.nic.pstop = s.nic.pstop ∧ t.nic.curr = s.nic.curr) ∨
    ∃ packet, s.nic.rxHeld = some packet ∧ s.nic.ringOk (ringPages packet.length) = true ∧
      t = ringCommit packet s.takePacket := by
  rcases exec_nicRxDeliver_cases s with ⟨_, e⟩ | ⟨_, _, _, _, e⟩ | ⟨packet, held, _, e⟩
  · obtain rfl := Host.Outcome.next.inj (e.symm.trans h)
    exact .inl ⟨rfl, rfl, rfl⟩
  · obtain rfl := Host.Outcome.next.inj (e.symm.trans h)
    exact .inl ⟨rfl, rfl, rfl⟩
  · have delivered : deliver packet s.takePacket = .next t := e.symm.trans h
    rcases deliver_cases packet s.takePacket with ⟨_, e⟩ | ⟨_, _, e⟩ | ⟨_, _, _, e⟩ | ⟨_, ok, _, e⟩
      <;> rw [e] at delivered <;> cases delivered
    · exact .inl (by rw [signal_nic]; exact ⟨rfl, rfl, rfl⟩)
    · exact .inl (by rw [signal_nic]; exact ⟨rfl, rfl, rfl⟩)
    · exact .inr ⟨packet, held, ok, rfl⟩

/-! ## Places in the ring (R395 to R397) -/

theorem le_ringPages (len : Nat) : len + 4 ≤ ringPages len * 256 := by
  unfold ringPages
  omega

/-- The ring counted in bytes: where byte `k` of a packet stands. -/
theorem Nic.ringAddr_eq (n : Nic) (k : Nat) :
    n.ringAddr k =
      if pageAddr n.pstop ≤ pageAddr n.curr + 4 + k then
        pageAddr n.curr + 4 + k - (pageAddr n.pstop - pageAddr n.pstart)
      else pageAddr n.curr + 4 + k := by
  rw [Nic.ringAddr, Nat.sub_mul]
  rfl

section Places
variable {n : Nic} {len : Nat} (ok : n.ringOk (ringPages len) = true)
include ok

/-- One subtraction brings the next page into the ring (R396). -/
theorem Nic.ringNext_range : n.pstart.toNat ≤ n.ringNext (ringPages len) ∧ n.ringNext (ringPages len) < n.pstop.toNat := by
  rw [Nic.ringOk_iff] at ok
  unfold Nic.ringNext
  split <;> omega

theorem Nic.toNat_ofNat_ringNext :
    (BitVec.ofNat 8 (n.ringNext (ringPages len))).toNat = n.ringNext (ringPages len) := by
  have below := (Nic.ringNext_range ok).2
  rw [BitVec.toNat_ofNat]
  omega

/-- A packet with its header takes fewer bytes than the ring has. -/
theorem Nic.packet_lt_ring : len + 4 + pageAddr n.pstart < pageAddr n.pstop := by
  have enough := le_ringPages len
  rw [Nic.ringOk_iff] at ok
  unfold pageAddr
  omega

/-- No two bytes of a packet have one place. -/
theorem Nic.ringAddr_inj {i j : Nat} (hi : i < len) (hj : j < len) (same : n.ringAddr i = n.ringAddr j) : i = j := by
  have header := Nic.ringHeader_range ok
  have fits := Nic.packet_lt_ring ok
  rw [Nic.ringAddr_eq, Nic.ringAddr_eq] at same
  split at same <;> split at same <;> omega

/-- No byte of a packet stands on its header: one that wraps comes to rest before CURR. -/
theorem Nic.ringAddr_ne_header {k i : Nat} (hk : k < len) (hi : i < 4) : n.ringAddr k ≠ pageAddr n.curr + i := by
  have header := Nic.ringHeader_range ok
  have fits := Nic.packet_lt_ring ok
  rw [Nic.ringAddr_eq]
  split <;> omega

/-- From the byte that reaches PSTOP on, a packet continues at PSTART (R399). -/
theorem Nic.ringAddr_past_pstop (k : Nat) :
    n.ringAddr (pageAddr n.pstop - pageAddr n.curr - 4 + k) = pageAddr n.pstart + k := by
  have header := Nic.ringHeader_range ok
  have fits := Nic.packet_lt_ring ok
  rw [Nic.ringAddr_eq, if_pos (by omega)]
  omega

end Places

/-! ## RAM after a packet is stored (R397) -/

/-- Of stores to distinct addresses none is lost. -/
theorem Memory.read?_writeCells_mem {cells : List Host.Cell} (m : Memory)
    (distinct : cells.Pairwise fun c d => c.1 ≠ d.1) {a : Nat} {b : Byte} (h : (a, b) ∈ cells) :
    (m.writeCells cells).read? a = some b := by
  induction cells generalizing m with
  | nil => cases h
  | cons c cells ih =>
    obtain ⟨fresh, distinct⟩ := List.pairwise_cons.mp distinct
    rcases List.mem_cons.mp h with rfl | h
    · rw [Memory.writeCells, Memory.read?_writeCells_notin _ _ fun d hd => (fresh d hd).symm, Memory.read?_write_same]
    · exact ih _ distinct h

theorem Nic.mem_ringCells {n : Nic} {packet : List Byte} {k : Nat} (hk : k < packet.length) :
    (n.ringAddr k, packet[k]) ∈ n.ringCells 0 packet := by
  rw [Nic.ringCells_eq, List.mem_mapIdx]
  exact ⟨k, hk, by rw [Nat.zero_add]⟩

section Stored
variable {n : Nic} {packet : List Byte}

theorem Nic.ringCells_distinct (ok : n.ringOk (ringPages packet.length) = true) :
    (n.ringCells 0 packet).Pairwise fun c d => c.1 ≠ d.1 := by
  rw [Nic.ringCells_eq, List.pairwise_iff_getElem]
  intro i j hi hj lt same
  rw [List.length_mapIdx] at hi hj
  simp only [List.getElem_mapIdx, Nat.zero_add] at same
  exact absurd (Nic.ringAddr_inj ok hi hj same) (by omega)

theorem Nic.ringStore_read?_data (ok : n.ringOk (ringPages packet.length) = true) {k : Nat} (hk : k < packet.length) :
    (n.ringStore packet).read? (n.ringAddr k) = packet[k]? := by
  rw [List.getElem?_eq_getElem hk]
  exact Memory.read?_writeCells_mem _ (Nic.ringCells_distinct ok) (Nic.mem_ringCells hk)

/-- An address of no data byte holds what it held after the header. -/
theorem Nic.ringStore_read?_of_no_data {x : Nat} (noData : ∀ k, k < packet.length → x ≠ n.ringAddr k) :
    (n.ringStore packet).read? x =
      if pageAddr n.curr ≤ x ∧ x < pageAddr n.curr + 4 then
        some ((ringHeader (n.ringNext (ringPages packet.length)) packet.length).getD (x - pageAddr n.curr) 0)
      else n.ram.read? x := by
  have elsewhere : ∀ c ∈ n.ringCells 0 packet, c.1 ≠ x := by
    rintro c hc rfl
    obtain ⟨k, hk, e⟩ := Nic.ringCells_range hc
    exact noData k hk (by rw [e, Nat.zero_add])
  rw [Nic.ringStore, Memory.read?_writeCells_notin _ _ elsewhere, Memory.read?_writeRun]
  rfl

end Stored

section Committed
variable {packet : List Byte} {s : State}

theorem ringCommit_ramByte (x : Nat) :
    (ringCommit packet s).nic.ramByte x =
      ((s.nic.ringStore packet).read? x).getD (Config.ramByte s.nic.ramEpoch x) := by
  rw [ringCommit_nic]
  rfl

theorem ringCommit_ramByte_other {x : Nat} (noHeader : x < pageAddr s.nic.curr ∨ pageAddr s.nic.curr + 4 ≤ x)
    (noData : ∀ k, k < packet.length → x ≠ s.nic.ringAddr k) :
    (ringCommit packet s).nic.ramByte x = s.nic.ramByte x := by
  rw [ringCommit_ramByte, Nic.ringStore_read?_of_no_data noData, if_neg (by omega)]
  rfl

variable (ok : s.nic.ringOk (ringPages packet.length) = true)
include ok

theorem ringCommit_ramByte_data {k : Nat} (hk : k < packet.length) :
    some ((ringCommit packet s).nic.ramByte (s.nic.ringAddr k)) = packet[k]? := by
  rw [ringCommit_ramByte, Nic.ringStore_read?_data ok hk, List.getElem?_eq_getElem hk]
  rfl

theorem ringCommit_ramByte_header {i : Nat} (hi : i < 4) :
    (ringCommit packet s).nic.ramByte (pageAddr s.nic.curr + i) =
      (ringHeader (s.nic.ringNext (ringPages packet.length)) packet.length).getD i 0 := by
  rw [ringCommit_ramByte,
    Nic.ringStore_read?_of_no_data fun k hk => (Nic.ringAddr_ne_header ok hk hi).symm, if_pos (by omega),
    Nat.add_sub_cancel_left]
  rfl

theorem ringCommit_curr : (ringCommit packet s).nic.curr.toNat = s.nic.ringNext (ringPages packet.length) := by
  rw [ringCommit_nic]
  exact Nic.toNat_ofNat_ringNext ok

end Committed

/-! ## A delivery under other filters (R398) -/

/-- The NIC with other values of the registers a real NE2000 filters packets by. -/
def Nic.withFilters (par : Vector Byte 6) (mar : Vector Byte 8) (rcr : Byte) (n : Nic) : Nic :=
  { n with par := par, mar := mar, rcr := rcr }

/-- An outcome with its next state, if it has one, replaced. -/
def mapNext (f : State → State) : Out → Out
  | .next t => .next (f t)
  | .fault r => .fault r
  | .refused r => .refused r

@[simp] theorem mapNext_next (f : State → State) (t : State) : mapNext f (.next t) = .next (f t) := rfl
@[simp] theorem mapNext_fault (f : State → State) (r : Fault) : mapNext f (.fault r) = .fault r := rfl

section Filters
variable (par : Vector Byte 6) (mar : Vector Byte 8) (rcr : Byte)

def State.withFilters (s : State) : State := { s with nic := s.nic.withFilters par mar rcr }

theorem signal_withFilters (b : Byte) (s : State) :
    signal b (s.withFilters par mar rcr) = (signal b s).withFilters par mar rcr :=
  (signal_then_nic b s (f := Nic.withFilters par mar rcr) fun _ => rfl).symm

theorem ringCommit_withFilters (packet : List Byte) (s : State) :
    ringCommit packet (s.withFilters par mar rcr) = (ringCommit packet s).withFilters par mar rcr := by
  have store : (s.withFilters par mar rcr).nic.ringStore packet = s.nic.ringStore packet :=
    Nic.ringStore_congr (m := (s.withFilters par mar rcr).nic) (n := s.nic) rfl rfl rfl rfl packet
  rw [ringCommit, ringCommit, store, ← signal_withFilters]
  rfl

theorem deliver_withFilters (packet : List Byte) (s : State) :
    deliver packet (s.withFilters par mar rcr) = mapNext (State.withFilters par mar rcr) (deliver packet s) := by
  rcases deliver_cases packet s with ⟨long, e⟩ | ⟨short, bad, e⟩ | ⟨short, ok, full, e⟩ | ⟨short, ok, room, e⟩ <;> rw [e]
  · rw [mapNext_next, ← signal_withFilters]
    exact deliver_of_overlong long
  · exact deliver_of_not_ringOk short (Bool.eq_false_iff.mp bad)
  · rw [mapNext_next, ← signal_withFilters]
    exact deliver_of_overflow short ok full
  · rw [mapNext_next, ← ringCommit_withFilters]
    exact deliver_of_room short ok room

theorem exec_nicRxDeliver_withFilters (s : State) :
    exec .nicRxDeliver (s.withFilters par mar rcr) = mapNext (State.withFilters par mar rcr) (exec .nicRxDeliver s) := by
  rcases exec_nicRxDeliver_cases s with ⟨empty, e⟩ | ⟨_, held, recheck, stopped, e⟩ | ⟨packet, held, goes, e⟩ <;> rw [e]
  · exact exec_nicRxDeliver_of_empty empty
  · exact exec_nicRxDeliver_of_stopped held recheck (Bool.eq_false_iff.mp stopped)
  · exact (exec_nicRxDeliver_of_held (s := s.withFilters par mar rcr) held goes).trans
      (deliver_withFilters par mar rcr packet s.takePacket)

end Filters

/-! ## The statements -/

/-- Settles O47: the delivery commits, and each byte of RAM is read off `ringCommit`. -/
theorem packetStored : Obligations.PacketStored := by
  rintro s packet _ _ base held goes short rfl ring low high fits rfl room place
  obtain rfl : base = pageAddr s.takePacket.nic.curr := place
  have ok : s.takePacket.nic.ringOk (ringPages packet.length) = true :=
    (Nic.ringOk_iff _ _).mpr ⟨ring, low, high, fits⟩
  have header {i : Nat} (hi : i < 4) := ringCommit_ramByte_header ok hi
  have status := header (i := 0) (by omega)
  rw [Nat.add_zero] at status
  refine ⟨ringCommit packet s.takePacket, ?_, status, ?_, ?_, ?_, fun _ => ringCommit_ramByte_data ok,
    fun _ => ringCommit_ramByte_other, fun _ => rfl, ringCommit_curr ok, ?_⟩
  · rw [← Nic.started_iff] at goes
    exact (exec_nicRxDeliver_of_held held goes).trans (deliver_of_room short ok room)
  · exact (congrArg BitVec.toNat (header (i := 1) (by omega))).trans (Nic.toNat_ofNat_ringNext ok)
  · refine (congrArg BitVec.toNat (header (i := 2) (by omega))).trans ?_
    exact (BitVec.toNat_ofNat _ _).trans (Nat.mod_mod _ _)
  · refine (congrArg BitVec.toNat (header (i := 3) (by omega))).trans ?_
    exact (BitVec.toNat_ofNat _ _).trans (Nat.mod_eq_of_lt (by omega))
  · rw [ringCommit_nic]
    rfl

/-- Settles O48: a delivery that moves CURR stored the packet, and past PSTOP its places run on from PSTART. -/
theorem ringWrap : Obligations.RingWrap := by
  rintro s t packet _ held h moved _ rfl k inside
  rcases exec_nicRxDeliver_keeps_or_stores h with ⟨_, _, kept⟩ | ⟨packet', held', ok, rfl⟩
  · exact absurd kept moved
  · obtain rfl : packet = packet' := Option.some.inj (held.symm.trans held')
    have stored := ringCommit_ramByte_data (s := s.takePacket) ok inside
    have place := Nic.ringAddr_past_pstop (n := s.takePacket.nic) ok k
    exact (congrArg (some <| (ringCommit packet s.takePacket).nic.ramByte ·) place.symm).trans stored

/-- Settles O49: CURR stays where it was, or is the next page, which is in the ring. -/
theorem deliveryKeepsCurrInRing : Obligations.DeliveryKeepsCurrInRing := by
  intro s t h low high
  rcases exec_nicRxDeliver_keeps_or_stores h with ⟨pstart, pstop, curr⟩ | ⟨packet, _, ok, rfl⟩
  · rw [pstart, pstop, curr]
    exact ⟨rfl, rfl, low, high⟩
  · have next := ringCommit_curr (s := s.takePacket) ok
    have inRing := Nic.ringNext_range ok
    rw [next, ringCommit_nic]
    exact ⟨rfl, rfl, inRing⟩

/-- Settles O50: a delivery commutes with a change of the filters. -/
theorem deliveryIgnoresFilters : Obligations.DeliveryIgnoresFilters := by
  intro s par mar rcr
  have alike := exec_nicRxDeliver_withFilters par mar rcr s
  exact ⟨fun _ next => alike.trans (congrArg _ next), fun _ fault => alike.trans (congrArg _ fault)⟩

/-- Settles O43: a poll is idle, or follows the host's answer. -/
theorem rxPollAnswers : Obligations.RxPollAnswers := by
  intro s
  simp only [← Nic.started_iff]
  refine ⟨exec_nicRxPoll_of_idle, fun empty sta stp => ?_⟩
  rw [exec_nicRxPoll_of_running empty ((Nic.started_iff _).mpr ⟨sta, stp⟩)]
  cases s.answers.hostRead with
  | noPacket => rfl
  | error => exact congrArg _ (report_returning .hostRead s .done)
  | packet bytes => rfl

/-- Settles O44: the three ends of R393 and R395 before the ring is looked at. -/
theorem rxDeliverWithoutStore : Obligations.RxDeliverWithoutStore := by
  unfold Obligations.RxDeliverWithoutStore
  simp only [← Nic.started_iff]
  exact ⟨fun _ => exec_nicRxDeliver_of_empty, fun _ _ => exec_nicRxDeliver_of_stopped,
    fun _ _ held goes long => (exec_nicRxDeliver_of_held held goes).trans (deliver_of_overlong long)⟩

/-- Settles O45: the delivery goes as far as the check of R394, which fails. -/
theorem ringConfigFault : Obligations.RingConfigFault := by
  intro s packet held goes short bad
  rw [← Nic.started_iff] at goes
  exact (exec_nicRxDeliver_of_held held goes).trans (deliver_of_not_ringOk short (mt (Nic.ringOk_iff _ _).mp bad))

/-- Settles O46: the delivery goes as far as the overflow test of R396, which holds. -/
theorem ringOverflow : Obligations.RingOverflow := by
  rintro s packet _ _ held goes short rfl ring low high fits rfl full
  rw [← Nic.started_iff] at goes
  have ok : s.takePacket.nic.ringOk (ringPages packet.length) = true :=
    (Nic.ringOk_iff _ _).mpr ⟨ring, low, high, fits⟩
  exact (exec_nicRxDeliver_of_held held goes).trans (deliver_of_overflow short ok full)

end Sys2Proof.Machine

/-!
PROOFS. Power-on (70_reset_and_hazards.md R470 to R472): the `pic_lower` at its end finds no request to withdraw, so the
next state is the constructed block with the NIC after its reset.
-/

namespace Sys2Proof.Machine

/-! ## `lower` with no request recorded (42_pic_lines.md R241) -/

theorem PicChip.withdraw_of_irr_zero {p : PicChip} (empty : p.irr = 0) (i : Nat) : p.withdraw i = p := by
  ext1 <;> simp [empty]

theorem picLower_of_no_requests {s : State} (master : s.master.irr = 0) (slave : s.slave.irr = 0) (line : Nat) :
    picLower line s = s := by
  have sameMaster := PicChip.withdraw_of_irr_zero master
  have sameSlave := PicChip.withdraw_of_irr_zero slave
  unfold picLower
  split
  · rw [sameMaster]
  · split
    · rw [sameMaster, sameSlave]
    · rfl

/-! ## The block right after power-on -/

theorem exec_sysPowerOn (s : State) : exec .sysPowerOn s = .next ((powerOn s).returning .done) := rfl

/-- Power-on as one update: the `pic_lower` of R472 leaves the chips at their reset values. -/
theorem powerOn_eq (s : State) :
    powerOn s =
      { s with
        bus := portMap
        master := PicChip.reset
        slave := PicChip.reset
        nic := (s.nic.drawn s.draws).afterReset s.params
        draws := s.draws + powerOnDraws } :=
  congrArg (State.useDraws · powerOnDraws) (picLower_of_no_requests rfl rfl s.params.nicIrqLine)

/-! ## The statement -/

/-- Settles O11: `powerOn_eq` gives the next state, and its NIC is the drawn one after a NIC reset, with the MAC twice at
the start of RAM. -/
theorem powerOnEffect : Obligations.PowerOnEffect := by
  intro s
  refine ⟨_, exec_sysPowerOn s, ?_⟩
  rw [powerOn_eq]
  exact ⟨rfl, rfl, rfl, rfl, (s.nic.drawn s.draws).afterReset_ramByte_mac s.params, rfl⟩

end Sys2Proof.Machine

/-!
PROOFS. Worked encodings (30_encoding.md section 6) and the NIC writes of configuration, address and CURR registers
(43_ne2000_regs.md sections 2 and 5): the encoder builds each worked word, and each write is one `nicStore`.
-/

namespace Sys2Proof.Machine

/-! ## A word built by the encoder (30_encoding.md R142, R144) -/

theorem decode_of_encode {x : Descriptor} {i : Instr} (wf : i.wf = true) (word : encode i = x) : decode x = .ok i :=
  word ▸ decodeEncodeRoundTrip 0 0 i wf

/-! ## A write that only stores -/

theorem next_nicStore (n : Nic) (s : State) : (.next (nicStore n s) : Out) = .next { s with nic := n, result := .ok } := rfl

/-! ## The statements -/

/-- Settles O4: each word is `encode` of its row's instruction, which is well formed, so the round trip decodes it. -/
theorem workedEncodingsDecode : Obligations.WorkedEncodingsDecode :=
  ⟨decode_of_encode rfl rfl, decode_of_encode rfl rfl, decode_of_encode rfl rfl, decode_of_encode rfl rfl,
    decode_of_encode rfl rfl, decode_of_encode rfl rfl, decode_of_encode rfl rfl, decode_of_encode rfl rfl,
    decode_of_encode rfl rfl, decode_of_encode rfl rfl, decode_of_encode rfl rfl⟩

/-- Settles O30: each write is `nicStore` of the NIC with that one register replaced. -/
theorem nicStorageWrites : Obligations.NicStorageWrites := fun v s =>
  ⟨next_nicStore { s.nic with rcr := v } s, next_nicStore { s.nic with tcr := v } s,
    next_nicStore { s.nic with dcr := v } s, next_nicStore { s.nic with curr := v } s,
    fun k => next_nicStore { s.nic with par := s.nic.par.set k v } s,
    fun k => next_nicStore { s.nic with mar := s.nic.mar.set k v } s⟩

end Sys2Proof.Machine
